-- ==== Sys2Proof/Word.lean ====
section
/-! DEFINITION. The word types of the block (00_scope.md R5: WORD_BITS = 8, WIDE_BITS = ADDR_BITS = 16). -/

namespace Sys2Proof

/-- An 8-bit register, memory byte or instruction byte (R7 `u8`). -/
abbrev Byte := BitVec 8

/-- A 16-bit register, immediate or address (R7 `u16`). Addition on it wraps mod 2^16 (R21, R53). -/
abbrev Word := BitVec 16

end Sys2Proof
end

