-- ==== Sys2Proof/Config.lean ====
section
/-! DEFINITION. The implementation parameters of 00_scope.md R5. The parameters whose value the document fixes and that no
rule reads by name (register counts, IMM16_ORDER, the opcode set) are built into the types and the decoder. -/

namespace Sys2Proof

/-- The byte order of a 16-bit datum in memory (R57). -/
inductive ByteOrder where
  | big      -- the byte at the lower address is the high byte
  | little   -- the byte at the lower address is the low byte
  deriving DecidableEq, Repr

/-- What a step does with an unknown opcode (R86, D28). -/
inductive UnknownPolicy where
  | diag     -- report one diagnostic event and go on: the spec's value
  | refuse   -- refuse the step: the optional conservative model
  deriving DecidableEq, Repr

/-- MEM_SIZE: the size of memory in bytes (R5, R50). -/
def Config.memSize : Nat := 65536

/-- HALT_SENTINEL: the byte at PC that ends the run loop (R5, R245). -/
def Config.haltSentinel : Byte := 0x00

/-- WIDE_DATA_ORDER, the spec's value BIG (R5, R57, D16). Log entry 6. -/
def Config.wideDataOrder : ByteOrder := .big

/-- UNKNOWN_POLICY, the spec's value DIAG (R5, R86, D28). Log entry 7. -/
def Config.unknownPolicy : UnknownPolicy := .diag

/-- STEP_LATENCY, left OPEN by the spec (R5, R252): how long the k-th step takes. It has no body, and no rule of the spec and
no definition of this model reads it. Log entry 13. -/
opaque Config.stepLatency : Nat → Nat

/-- DIAG_SINK, the receiver of diagnostic events, left OPEN by the spec (R5, D20): a named argument of the host's ports
(Machine/HostPorts.lean), never fixed here. It takes an event into its own condition, of any type `κ`; nothing flows back into the
block (R223). Log entry 16. -/
abbrev DiagSink (Event κ : Type) := κ → Event → κ

end Sys2Proof
end

