-- ==== Sys2Proof/Syntax.lean ====
section
/-! DEFINITION. The instructions: one constructor of `Instr` per mnemonic of spec/opcode_table.json, the operands that tell its
rows apart as arguments. Operand bytes are the constructor's fields: `n` an 8-bit immediate (R114), `nn` a 16-bit immediate or
address (R115), `d` an index displacement (R84), `e` a relative offset (R85). -/

namespace Sys2Proof

/-- The registers of the `r` field (R72; its value 6 is no register). -/
inductive Reg8 where
  | b | c | d | e | h | l | a
  deriving DecidableEq, Repr

/-- The composed register pairs (R23). -/
inductive Pair where
  | bc | de | hl
  deriving DecidableEq, Repr

/-- The destinations of the `dd` field (R73): a composed pair, or SP. -/
inductive Dest16 where
  | pair (p : Pair)
  | sp
  deriving DecidableEq, Repr

/-- The conditions of the `cc` field (R74). -/
inductive Cond where
  | nz | z | nc | c | po | pe | p | m
  deriving DecidableEq, Repr

/-- The index register X an escape byte selects (R79): IX under 0xDD, IY under 0xFD. -/
inductive Idx where
  | ix | iy
  deriving DecidableEq, Repr

/-- The eight two-operand ALU mnemonics, in the order of the `alu` field (R75). -/
inductive AluOp where
  | add | adc | sub | sbc | and | xor | or | cp
  deriving DecidableEq, Repr

/-- The instructions of spec/opcode_table.json. -/
inductive Instr where
  -- 42_loads.md
  | ldRR (dst src : Reg8)
  | ldRHl (r : Reg8)
  | ldHlR (r : Reg8)
  | ldRN (r : Reg8) (n : Byte)
  | ldHlN (n : Byte)
  | ldABc
  | ldADe
  | ldBcA
  | ldDeA
  | ldADir (nn : Word)
  | ldDirA (nn : Word)
  | ldDdNn (dd : Dest16) (nn : Word)
  | ldRXd (x : Idx) (r : Reg8) (d : Byte)
  | ldXdR (x : Idx) (r : Reg8) (d : Byte)
  | ldXdN (x : Idx) (d n : Byte)
  | ldXNn (x : Idx) (nn : Word)
  | ldXDir (x : Idx) (nn : Word)
  | ldRNPrefixed (x : Idx) (r : Reg8) (n : Byte)
  -- 43_arith_logic.md, second operand r
  | addR (r : Reg8)
  | adcR (r : Reg8)
  | subR (r : Reg8)
  | sbcR (r : Reg8)
  | andR (r : Reg8)
  | xorR (r : Reg8)
  | orR (r : Reg8)
  | cpR (r : Reg8)
  -- second operand (HL)
  | addHl
  | adcHl
  | subHl
  | sbcHl
  | andHl
  | xorHl
  | orHl
  | cpHl
  -- second operand n
  | addN (n : Byte)
  | adcN (n : Byte)
  | subN (n : Byte)
  | sbcN (n : Byte)
  | andN (n : Byte)
  | xorN (n : Byte)
  | orN (n : Byte)
  | cpN (n : Byte)
  -- second operand (X+d)
  | addXd (x : Idx) (d : Byte)
  | adcXd (x : Idx) (d : Byte)
  | subXd (x : Idx) (d : Byte)
  | sbcXd (x : Idx) (d : Byte)
  | andXd (x : Idx) (d : Byte)
  | xorXd (x : Idx) (d : Byte)
  | orXd (x : Idx) (d : Byte)
  | cpXd (x : Idx) (d : Byte)
  -- INC and DEC
  | incR (r : Reg8)
  | incHl
  | incXd (x : Idx) (d : Byte)
  | decR (r : Reg8)
  | decHl
  | decXd (x : Idx) (d : Byte)
  -- 44_control.md
  | nop
  | jp (nn : Word)
  | jpCc (cc : Cond) (nn : Word)
  | jr (e : Byte)
  | jrCc (cc : Cond) (e : Byte)
  | djnz (e : Byte)
  -- the two escape-byte rows (R79): 0xDD or 0xFD before a second byte `o` that is no row of its table (R87, R88)
  | prefixDD (o : Byte)
  | prefixFD (o : Byte)
  deriving DecidableEq, Repr

end Sys2Proof
end

