-- ==== Sys2Proof/WellFormed.lean ====
section
/-! DEFINITION. Which terms of `Instr` are instructions of the opcode table. Three checks, each refused by a test of
Tests/Slice0.lean: the condition of JR cc (R204), the register of LD r,n after an escape byte (R167), and the second byte of a
bare escape byte (R87). -/

namespace Sys2Proof

/-- The 32 second bytes of the DD and FD tables, as R80 lists them. -/
def knownSecondBytes : List Byte :=
  [0x46, 0x4E, 0x56, 0x5E, 0x66, 0x6E, 0x7E,             -- LD r,(X+d)
   0x70, 0x71, 0x72, 0x73, 0x74, 0x75, 0x77,             -- LD (X+d),r
   0x36, 0x34, 0x35,                                     -- LD (X+d),n; INC (X+d); DEC (X+d)
   0x86, 0x8E, 0x96, 0x9E, 0xA6, 0xAE, 0xB6, 0xBE,       -- ALU A,(X+d)
   0x06, 0x0E, 0x16, 0x1E, 0x3E,                         -- LD r,n
   0x21, 0x2A]                                           -- LD X,nn; LD X,(nn)

/-- JR cc tests NZ, Z, NC or C only (R204, R206). -/
def Cond.forJr : Cond → Bool
  | .nz | .z | .nc | .c => true
  | .po | .pe | .p | .m => false

/-- LD r,n after an escape byte has r in B, C, D, E, A (R167): its 0x26 and 0x2E are unknown. -/
def Reg8.forPrefixedImm : Reg8 → Bool
  | .b | .c | .d | .e | .a => true
  | .h | .l => false

/-- The term is an instruction the encoding admits. -/
def Instr.wf : Instr → Bool
  | .jrCc cc _ => cc.forJr
  | .ldRNPrefixed _ r _ => r.forPrefixedImm
  | .prefixDD o | .prefixFD o => !knownSecondBytes.contains o
  | .ldRR .. | .ldRHl .. | .ldHlR .. | .ldRN .. | .ldHlN .. | .ldABc | .ldADe | .ldBcA | .ldDeA | .ldADir ..
  | .ldDirA .. | .ldDdNn .. | .ldRXd .. | .ldXdR .. | .ldXdN .. | .ldXNn .. | .ldXDir .. | .addR .. | .adcR ..
  | .subR .. | .sbcR .. | .andR .. | .xorR .. | .orR .. | .cpR .. | .addHl | .adcHl | .subHl | .sbcHl | .andHl | .xorHl
  | .orHl | .cpHl | .addN .. | .adcN .. | .subN .. | .sbcN .. | .andN .. | .xorN .. | .orN .. | .cpN .. | .addXd ..
  | .adcXd .. | .subXd .. | .sbcXd .. | .andXd .. | .xorXd .. | .orXd .. | .cpXd .. | .incR .. | .incHl | .incXd ..
  | .decR .. | .decHl | .decXd .. | .nop | .jp .. | .jpCc .. | .jr .. | .djnz .. => true

end Sys2Proof
end

