-- ==== Sys2Proof/Decode.lean ====
section
/-! DEFINITION. Decoding and encoding (30_encoding.md). The opcode space is data (R96): an opcode byte names a row, which is a
format (R76) and the instruction built from the operand bytes. `decode` is total on any bytes (R95): an instruction, or an
unknown primary opcode by name. `encode` gives the bytes of a well-formed instruction from the same field tables. -/

namespace Sys2Proof

/-! ### Bytes and fields -/

/-- `hi ++ lo` (R7): a 16-bit value from its two bytes. -/
def joinBytes (hi lo : Byte) : Word := (hi ++ lo : BitVec (8 + 8))

/-- `w[15:8]` (R6). -/
def hiByte (w : Word) : Byte := w.extractLsb' 8 8

/-- `w[7:0]` (R6). -/
def loByte (w : Word) : Byte := w.extractLsb' 0 8

/-- Field x of an opcode byte, `o[7:6]` (R71). -/
def fieldX (o : Byte) : BitVec 2 := o.extractLsb' 6 2

/-- Field y of an opcode byte, `o[5:3]` (R71). -/
def fieldY (o : Byte) : BitVec 3 := o.extractLsb' 3 3

/-- Field z of an opcode byte, `o[2:0]` (R71). -/
def fieldZ (o : Byte) : BitVec 3 := o.extractLsb' 0 3

/-- Field p of an opcode byte, `o[5:4]` (R71). -/
def fieldP (o : Byte) : BitVec 2 := o.extractLsb' 4 2

/-- Field q of an opcode byte, `o[3]` (R71). -/
def fieldQ (o : Byte) : BitVec 1 := o.extractLsb' 3 1

/-- The opcode byte with fields x, y, z (R71). -/
def opByte (x : BitVec 2) (y z : BitVec 3) : Byte := (x ++ y ++ z : BitVec (2 + 3 + 3))

/-! ### Field tables -/

/-- The `r` field (R72); 6 is not a register. -/
def Reg8.ofCode : BitVec 3 → Option Reg8
  | 0 => some .b
  | 1 => some .c
  | 2 => some .d
  | 3 => some .e
  | 4 => some .h
  | 5 => some .l
  | 6 => none
  | _ => some .a

/-- The `r` field's value for a register (R72). -/
def Reg8.code : Reg8 → BitVec 3
  | .b => 0
  | .c => 1
  | .d => 2
  | .e => 3
  | .h => 4
  | .l => 5
  | .a => 7

/-- The `r` field's value for the memory operand, (HL) or (X+d) (R72, R80). -/
def memCode : BitVec 3 := 6

/-- The `dd` field (R73). -/
def Dest16.ofCode : BitVec 2 → Dest16
  | 0 => .pair .bc
  | 1 => .pair .de
  | 2 => .pair .hl
  | _ => .sp

/-- The `dd` field's value (R73). -/
def Dest16.code : Dest16 → BitVec 2
  | .pair .bc => 0
  | .pair .de => 1
  | .pair .hl => 2
  | .sp => 3

/-- The `cc` field (R74). -/
def Cond.ofCode : BitVec 3 → Cond
  | 0 => .nz
  | 1 => .z
  | 2 => .nc
  | 3 => .c
  | 4 => .po
  | 5 => .pe
  | 6 => .p
  | _ => .m

/-- The `cc` field's value (R74). -/
def Cond.code : Cond → BitVec 3
  | .nz => 0
  | .z => 1
  | .nc => 2
  | .c => 3
  | .po => 4
  | .pe => 5
  | .p => 6
  | .m => 7

/-- The `alu` field (R75). -/
def AluOp.ofCode : BitVec 3 → AluOp
  | 0 => .add
  | 1 => .adc
  | 2 => .sub
  | 3 => .sbc
  | 4 => .and
  | 5 => .xor
  | 6 => .or
  | _ => .cp

/-- The `alu` field's value (R75). -/
def AluOp.code : AluOp → BitVec 3
  | .add => 0
  | .adc => 1
  | .sub => 2
  | .sbc => 3
  | .and => 4
  | .xor => 5
  | .or => 6
  | .cp => 7

/-- The escape byte of each index register's table (R79, D10). -/
def Idx.escape : Idx → Byte
  | .ix => 0xDD
  | .iy => 0xFD

/-- The ALU instruction with operand r (R180). -/
def AluOp.instrR : AluOp → Reg8 → Instr
  | .add => .addR
  | .adc => .adcR
  | .sub => .subR
  | .sbc => .sbcR
  | .and => .andR
  | .xor => .xorR
  | .or => .orR
  | .cp => .cpR

/-- The ALU instruction with operand (HL) (R180). -/
def AluOp.instrHl : AluOp → Instr
  | .add => .addHl
  | .adc => .adcHl
  | .sub => .subHl
  | .sbc => .sbcHl
  | .and => .andHl
  | .xor => .xorHl
  | .or => .orHl
  | .cp => .cpHl

/-- The ALU instruction with operand n (R180). -/
def AluOp.instrN : AluOp → Byte → Instr
  | .add => .addN
  | .adc => .adcN
  | .sub => .subN
  | .sbc => .sbcN
  | .and => .andN
  | .xor => .xorN
  | .or => .orN
  | .cp => .cpN

/-- The ALU instruction with operand (X+d) (R180). -/
def AluOp.instrXd : AluOp → Idx → Byte → Instr
  | .add => .addXd
  | .adc => .adcXd
  | .sub => .subXd
  | .sbc => .sbcXd
  | .and => .andXd
  | .xor => .xorXd
  | .or => .orXd
  | .cp => .cpXd

/-! ### Formats -/

/-- The formats of R76. -/
inductive Format where
  | op | opN | opE | opNN | pxOpN | pxOpD | pxOpDN | pxOpNN
  deriving DecidableEq, Repr

/-- The number of operand bytes after the opcode byte or bytes (R76). -/
def Format.operandBytes : Format → Nat
  | .op => 0
  | .opN | .opE | .pxOpN | .pxOpD => 1
  | .opNN | .pxOpDN | .pxOpNN => 2

/-- The length in bytes (R76). -/
def Format.length : Format → Nat
  | .op => 1
  | .opN | .opE => 2
  | .opNN | .pxOpN | .pxOpD => 3
  | .pxOpDN | .pxOpNN => 4

/-- A row of the opcode table: its format, and the instruction its operand bytes complete. A format with one operand byte takes
the first argument, one with none takes neither. In a two-byte operand the first fetched byte is the first argument, which is the
high byte of nn (R83) and the d of PX_OP_D_N (R84, D15). -/
structure OpRow where
  format : Format
  build : Byte → Byte → Instr

/-! ### The tables -/

/-- The rows with x = 0 (R94). -/
def primaryRowX0 (o : Byte) : Option OpRow :=
  match fieldZ o with
  | 4 =>
    match Reg8.ofCode (fieldY o) with
    | some r => some ⟨.op, fun _ _ => .incR r⟩
    | none => some ⟨.op, fun _ _ => .incHl⟩
  | 5 =>
    match Reg8.ofCode (fieldY o) with
    | some r => some ⟨.op, fun _ _ => .decR r⟩
    | none => some ⟨.op, fun _ _ => .decHl⟩
  | 6 =>
    match Reg8.ofCode (fieldY o) with
    | some r => some ⟨.opN, fun n _ => .ldRN r n⟩
    | none => some ⟨.opN, fun n _ => .ldHlN n⟩
  | 1 =>
    if fieldQ o = 0 then some ⟨.opNN, fun hi lo => .ldDdNn (.ofCode (fieldP o)) (joinBytes hi lo)⟩
    else none
  | _ =>
    match o with
    | 0x00 => some ⟨.op, fun _ _ => .nop⟩
    | 0x02 => some ⟨.op, fun _ _ => .ldBcA⟩
    | 0x0A => some ⟨.op, fun _ _ => .ldABc⟩
    | 0x12 => some ⟨.op, fun _ _ => .ldDeA⟩
    | 0x1A => some ⟨.op, fun _ _ => .ldADe⟩
    | 0x32 => some ⟨.opNN, fun hi lo => .ldDirA (joinBytes hi lo)⟩
    | 0x3A => some ⟨.opNN, fun hi lo => .ldADir (joinBytes hi lo)⟩
    | 0x10 => some ⟨.opE, fun e _ => .djnz e⟩
    | 0x18 => some ⟨.opE, fun e _ => .jr e⟩
    | 0x20 => some ⟨.opE, fun e _ => .jrCc .nz e⟩
    | 0x28 => some ⟨.opE, fun e _ => .jrCc .z e⟩
    | 0x30 => some ⟨.opE, fun e _ => .jrCc .nc e⟩
    | 0x38 => some ⟨.opE, fun e _ => .jrCc .c e⟩
    | _ => none

/-- The rows with x = 1: loads between registers and (HL), without 0x76 (R94, R90). -/
def primaryRowX1 (o : Byte) : Option OpRow :=
  match Reg8.ofCode (fieldY o), Reg8.ofCode (fieldZ o) with
  | some dst, some src => some ⟨.op, fun _ _ => .ldRR dst src⟩
  | some dst, none => some ⟨.op, fun _ _ => .ldRHl dst⟩
  | none, some src => some ⟨.op, fun _ _ => .ldHlR src⟩
  | none, none => none

/-- The rows with x = 2: alu[y] A,r[z] (R94). -/
def primaryRowX2 (o : Byte) : Option OpRow :=
  match Reg8.ofCode (fieldZ o) with
  | some r => some ⟨.op, fun _ _ => (AluOp.ofCode (fieldY o)).instrR r⟩
  | none => some ⟨.op, fun _ _ => (AluOp.ofCode (fieldY o)).instrHl⟩

/-- The rows with x = 3 (R94). -/
def primaryRowX3 (o : Byte) : Option OpRow :=
  match fieldZ o with
  | 6 => some ⟨.opN, fun n _ => (AluOp.ofCode (fieldY o)).instrN n⟩
  | 2 => some ⟨.opNN, fun hi lo => .jpCc (.ofCode (fieldY o)) (joinBytes hi lo)⟩
  | _ => if o = 0xC3 then some ⟨.opNN, fun hi lo => .jp (joinBytes hi lo)⟩ else none

/-- The primary table (R78, R94), less its two escape bytes. -/
def primaryRow (o : Byte) : Option OpRow :=
  match fieldX o with
  | 0 => primaryRowX0 o
  | 1 => primaryRowX1 o
  | 2 => primaryRowX2 o
  | _ => primaryRowX3 o

/-- The table an escape byte selects, keyed by the second byte (R80, R94). -/
def escapedRow (x : Idx) (o : Byte) : Option OpRow :=
  match fieldX o with
  | 0 =>
    match o with
    | 0x34 => some ⟨.pxOpD, fun d _ => .incXd x d⟩
    | 0x35 => some ⟨.pxOpD, fun d _ => .decXd x d⟩
    | 0x36 => some ⟨.pxOpDN, fun d n => .ldXdN x d n⟩
    | 0x21 => some ⟨.pxOpNN, fun hi lo => .ldXNn x (joinBytes hi lo)⟩
    | 0x2A => some ⟨.pxOpNN, fun hi lo => .ldXDir x (joinBytes hi lo)⟩
    | 0x06 => some ⟨.pxOpN, fun n _ => .ldRNPrefixed x .b n⟩
    | 0x0E => some ⟨.pxOpN, fun n _ => .ldRNPrefixed x .c n⟩
    | 0x16 => some ⟨.pxOpN, fun n _ => .ldRNPrefixed x .d n⟩
    | 0x1E => some ⟨.pxOpN, fun n _ => .ldRNPrefixed x .e n⟩
    | 0x3E => some ⟨.pxOpN, fun n _ => .ldRNPrefixed x .a n⟩
    | _ => none
  | 1 =>
    match Reg8.ofCode (fieldY o), Reg8.ofCode (fieldZ o) with
    | some r, none => some ⟨.pxOpD, fun d _ => .ldRXd x r d⟩
    | none, some r => some ⟨.pxOpD, fun d _ => .ldXdR x r d⟩
    | some _, some _ => none
    | none, none => none
  | 2 =>
    match Reg8.ofCode (fieldZ o) with
    | some _ => none
    | none => some ⟨.pxOpD, fun d _ => (AluOp.ofCode (fieldY o)).instrXd x d⟩
  | _ => none

/-! ### Decoding -/

/-- What bytes decode to (R95): an instruction, or an unknown primary opcode (R86). -/
inductive Decoded where
  | instr (i : Instr)
  | unknown (o : Byte)
  deriving DecidableEq, Repr

/-- The index register an escape byte selects, none for any other byte (R79). -/
def Idx.ofEscape (o : Byte) : Option Idx :=
  if o = 0xDD then some .ix else if o = 0xFD then some .iy else none

/-- The instruction of an escape byte whose second byte is no row of its table (R87, R88). -/
def Idx.unknownInstr : Idx → Byte → Instr
  | .ix => .prefixDD
  | .iy => .prefixFD

/-- The instruction the two to four bytes of an escaped opcode stand for (R77, R80, R87). -/
def decodeEscaped (x : Idx) (o b2 b3 : Byte) : Instr :=
  match escapedRow x o with
  | some row => row.build b2 b3
  | none => x.unknownInstr o

/-- What four bytes, the first at the lowest address, decode to (R77). -/
def decodeFour (b0 b1 b2 b3 : Byte) : Decoded :=
  match Idx.ofEscape b0 with
  | some x => .instr (decodeEscaped x b1 b2 b3)
  | none =>
    match primaryRow b0 with
    | some row => .instr (row.build b1 b2)
    | none => .unknown b0

/-- What a sequence of bytes decodes to. An instruction has at most four bytes (R70); bytes past the end of the list read as 0
(log entry 14; memory never runs out of bytes, so a step always gives four). -/
def decode (bytes : List Byte) : Decoded :=
  decodeFour (bytes.getD 0 0) (bytes.getD 1 0) (bytes.getD 2 0) (bytes.getD 3 0)

/-- The format of an instruction (R76). The bare escape byte with an unknown second byte consumes just those two bytes
(R81, R87), so it has no format. -/
def Instr.format : Instr → Option Format
  | .ldRR .. | .ldRHl .. | .ldHlR .. | .ldABc | .ldADe | .ldBcA | .ldDeA | .nop => some .op
  | .addR .. | .adcR .. | .subR .. | .sbcR .. | .andR .. | .xorR .. | .orR .. | .cpR .. => some .op
  | .addHl | .adcHl | .subHl | .sbcHl | .andHl | .xorHl | .orHl | .cpHl => some .op
  | .incR .. | .incHl | .decR .. | .decHl => some .op
  | .ldRN .. | .ldHlN .. => some .opN
  | .addN .. | .adcN .. | .subN .. | .sbcN .. | .andN .. | .xorN .. | .orN .. | .cpN .. => some .opN
  | .jr .. | .jrCc .. | .djnz .. => some .opE
  | .ldADir .. | .ldDirA .. | .ldDdNn .. | .jp .. | .jpCc .. => some .opNN
  | .ldRNPrefixed .. => some .pxOpN
  | .ldRXd .. | .ldXdR .. | .incXd .. | .decXd .. => some .pxOpD
  | .addXd .. | .adcXd .. | .subXd .. | .sbcXd .. | .andXd .. | .xorXd .. | .orXd .. | .cpXd .. => some .pxOpD
  | .ldXdN .. => some .pxOpDN
  | .ldXNn .. | .ldXDir .. => some .pxOpNN
  | .prefixDD .. | .prefixFD .. => none

/-- How many bytes a step consumes for an instruction (R81). -/
def Instr.length (i : Instr) : Nat :=
  match i.format with
  | some f => f.length
  | none => 2

/-! ### Encoding -/

/-- `10 aaa zzz` (R180). -/
def encodeAluR (op : AluOp) (r : Reg8) : List Byte := [opByte 2 op.code r.code]

/-- `10 aaa 110` (R180). -/
def encodeAluHl (op : AluOp) : List Byte := [opByte 2 op.code memCode]

/-- `11 aaa 110 nnnnnnnn` (R180). -/
def encodeAluN (op : AluOp) (n : Byte) : List Byte := [opByte 3 op.code 6, n]

/-- `p 10 aaa 110 dddddddd` (R180). -/
def encodeAluXd (op : AluOp) (x : Idx) (d : Byte) : List Byte := [x.escape, opByte 2 op.code memCode, d]

/-- The bytes of a well-formed instruction, the first at the lowest address (R70 to R76, R94). -/
def encode : Instr → List Byte
  | .ldRR dst src => [opByte 1 dst.code src.code]
  | .ldRHl r => [opByte 1 r.code memCode]
  | .ldHlR r => [opByte 1 memCode r.code]
  | .ldRN r n => [opByte 0 r.code 6, n]
  | .ldHlN n => [opByte 0 memCode 6, n]
  | .ldABc => [0x0A]
  | .ldADe => [0x1A]
  | .ldBcA => [0x02]
  | .ldDeA => [0x12]
  | .ldADir nn => [0x3A, hiByte nn, loByte nn]
  | .ldDirA nn => [0x32, hiByte nn, loByte nn]
  | .ldDdNn dd nn => [(0#2 ++ dd.code ++ 0b0001#4 : BitVec (2 + 2 + 4)), hiByte nn, loByte nn]
  | .ldRXd x r d => [x.escape, opByte 1 r.code memCode, d]
  | .ldXdR x r d => [x.escape, opByte 1 memCode r.code, d]
  | .ldXdN x d n => [x.escape, 0x36, d, n]
  | .ldXNn x nn => [x.escape, 0x21, hiByte nn, loByte nn]
  | .ldXDir x nn => [x.escape, 0x2A, hiByte nn, loByte nn]
  | .ldRNPrefixed x r n => [x.escape, opByte 0 r.code 6, n]
  | .addR r => encodeAluR .add r
  | .adcR r => encodeAluR .adc r
  | .subR r => encodeAluR .sub r
  | .sbcR r => encodeAluR .sbc r
  | .andR r => encodeAluR .and r
  | .xorR r => encodeAluR .xor r
  | .orR r => encodeAluR .or r
  | .cpR r => encodeAluR .cp r
  | .addHl => encodeAluHl .add
  | .adcHl => encodeAluHl .adc
  | .subHl => encodeAluHl .sub
  | .sbcHl => encodeAluHl .sbc
  | .andHl => encodeAluHl .and
  | .xorHl => encodeAluHl .xor
  | .orHl => encodeAluHl .or
  | .cpHl => encodeAluHl .cp
  | .addN n => encodeAluN .add n
  | .adcN n => encodeAluN .adc n
  | .subN n => encodeAluN .sub n
  | .sbcN n => encodeAluN .sbc n
  | .andN n => encodeAluN .and n
  | .xorN n => encodeAluN .xor n
  | .orN n => encodeAluN .or n
  | .cpN n => encodeAluN .cp n
  | .addXd x d => encodeAluXd .add x d
  | .adcXd x d => encodeAluXd .adc x d
  | .subXd x d => encodeAluXd .sub x d
  | .sbcXd x d => encodeAluXd .sbc x d
  | .andXd x d => encodeAluXd .and x d
  | .xorXd x d => encodeAluXd .xor x d
  | .orXd x d => encodeAluXd .or x d
  | .cpXd x d => encodeAluXd .cp x d
  | .incR r => [opByte 0 r.code 4]
  | .incHl => [opByte 0 memCode 4]
  | .incXd x d => [x.escape, 0x34, d]
  | .decR r => [opByte 0 r.code 5]
  | .decHl => [opByte 0 memCode 5]
  | .decXd x d => [x.escape, 0x35, d]
  | .nop => [0x00]
  | .jp nn => [0xC3, hiByte nn, loByte nn]
  | .jpCc cc nn => [opByte 3 cc.code 2, hiByte nn, loByte nn]
  | .jr e => [0x18, e]
  | .jrCc cc e => [opByte 0 (cc.code + 4) 0, e]
  | .djnz e => [0x10, e]
  | .prefixDD o => [0xDD, o]
  | .prefixFD o => [0xFD, o]

/-! ### The host's numbering of a table word -/

/-- The bytes of a word the host makes from a row of spec/opcode_table.json, padded with zeros to the longest instruction. The
table numbers a row's opcode bytes as ONE big-endian number (R96: 0xDD46 is first byte 0xDD, second byte 0x46), so the first byte
is the most significant. A two-byte word whose high byte is no escape byte while its low byte is one is read low byte first (log
entry 1). -/
def tableWordBytes (nbits w : Nat) : List Byte :=
  let byteAt (k : Nat) : Byte := BitVec.ofNat 8 (w >>> (8 * k))
  match (nbits + 7) / 8 with
  | 0 | 1 => [byteAt 0, 0, 0, 0]
  | 2 =>
    if (Idx.ofEscape (byteAt 1)).isNone && (Idx.ofEscape (byteAt 0)).isSome then [byteAt 0, byteAt 1, 0, 0]
    else [byteAt 1, byteAt 0, 0, 0]
  | 3 => [byteAt 2, byteAt 1, byteAt 0, 0]
  | _ => [byteAt 3, byteAt 2, byteAt 1, byteAt 0]

/-- The instruction the decoder reads from a table word (log entry 1). -/
def decodeTableWord (nbits w : Nat) : Option Instr :=
  match decode (tableWordBytes nbits w) with
  | .instr i => some i
  | .unknown _ => none

end Sys2Proof
end

