-- ==== Sys2Proof/Machine/State.lean ====
section
/-! DEFINITION. The state of the block (10_state.md R20) and the ways a step can end. -/

namespace Sys2Proof.Machine

open Sys2Proof

/-- Memory as the list of its bytes that are not zero, addresses strictly rising (`Memory.wf`, Ops.lean). An address that is not
listed reads as 0x00, the spec's reset contents (R36, R51). -/
abbrev Memory := List Host.Cell

/-- The table field of a diagnostic event (R221): PRIMARY (0), DD (1), FD (2). -/
inductive TableId where
  | primary | dd | fd
  deriving DecidableEq, Repr

/-- The two-bit code of the table field (R221). The value 3 is never emitted. -/
def TableId.code : TableId → BitVec 2
  | .primary => 0
  | .dd => 1
  | .fd => 2

/-- A diagnostic event (R221): the table and "the offending byte value". -/
structure DiagEvent where
  table : TableId
  byte : Byte
  deriving DecidableEq, Repr

/-- The block's state, exactly R20, and the record of what its `diag` port has emitted. -/
structure State where
  /-- A, the accumulator. -/
  a : Byte
  /-- F, the flags (R32). -/
  f : Byte
  b : Byte
  c : Byte
  d : Byte
  e : Byte
  h : Byte
  l : Byte
  /-- The shadow bank A' to L' (R26). -/
  a' : Byte
  f' : Byte
  b' : Byte
  c' : Byte
  d' : Byte
  e' : Byte
  h' : Byte
  l' : Byte
  /-- The special registers I and R (R27). -/
  i : Byte
  r : Byte
  /-- The index registers (R28). -/
  ix : Word
  iy : Word
  /-- The stack pointer (R29). -/
  sp : Word
  /-- The program counter (R30). -/
  pc : Word
  /-- Mem (R50). -/
  mem : Memory
  /-- The events the `diag` port has emitted, oldest first (R221, R246, R247). The model's own record of an output: no instruction
  reads it (R35). Log entry 4. -/
  events : List DiagEvent
  deriving DecidableEq, Repr

/-- The ways the machine stops with a fault: none. "No exceptions cross the step/run boundary" (R220), no memory access and no
ALU operation can fault (R52, R147), so the type has no constructor. Log entry 9. -/
inductive Fault where
  deriving DecidableEq, Repr

/-- The ways a step or a load is refused. -/
inductive Refusal where
  /-- An instruction that has no meaning yet. Raised only by an arm of `exec`; every arm has its meaning, so nothing raises it.
  Safe: a refusal proves nothing false. -/
  | notModelled (mnemonic : String)
  /-- An unknown opcode under UNKNOWN_POLICY = REFUSE (R86, D28). Raised by `reportUnknown`; never under the spec's value DIAG.
  Safe. -/
  | unknownOpcode (table : TableId) (byte : Byte)
  /-- An image longer than memory, which "is refused and loads nothing" (R242). Raised by `State.load`. Safe. -/
  | imageTooLong
  deriving DecidableEq, Repr

/-- The state after reset (R36, R240): every register 0, PC = 0x0000, every byte of memory 0x00, no event. -/
def State.reset : State :=
  { a := 0, f := 0, b := 0, c := 0, d := 0, e := 0, h := 0, l := 0,
    a' := 0, f' := 0, b' := 0, c' := 0, d' := 0, e' := 0, h' := 0, l' := 0,
    i := 0, r := 0, ix := 0, iy := 0, sp := 0, pc := 0, mem := [], events := [] }

end Sys2Proof.Machine
end

