-- ==== Sys2Proof/Machine/Ops.lean ====
section
/-! DEFINITION. The named operations over memory and registers (10_state.md, 20_memory.md), and the diagnostic report, which is
the block's one abnormal event and stands where another machine takes an exception (R220, R221, R226). -/

namespace Sys2Proof.Machine

open Sys2Proof

abbrev Outcome := Host.Outcome State Fault Refusal

/-! ### Memory -/

/-- What an address that is not listed reads as: memory is "zero-initialized" (R36, R51). -/
def Memory.unlisted : Byte := 0

/-- The canonical form: addresses strictly rising, no byte equal to what an unlisted address reads as, every address one of the
65536 of R50. -/
abbrev Memory.wf (m : Memory) : Prop :=
  m.Pairwise (fun x y => x.1 < y.1) ∧ ∀ x ∈ m, x.2 ≠ Memory.unlisted ∧ x.1 < Config.memSize

/-- The byte listed at a key, or the unlisted byte. -/
def Memory.get : Memory → Nat → Byte
  | [], _ => Memory.unlisted
  | x :: m, k => if x.1 = k then x.2 else Memory.get m k

/-- The list without the entries at a key. -/
def Memory.erase : Memory → Nat → Memory
  | [], _ => []
  | x :: m, k => if x.1 = k then Memory.erase m k else x :: Memory.erase m k

/-- The list with an entry put before the first larger key. -/
def Memory.insert : Memory → Nat → Byte → Memory
  | [], k, v => [(k, v)]
  | x :: m, k, v => if x.1 < k then x :: Memory.insert m k v else (k, v) :: x :: m

/-- The list with a byte put at a key, in canonical form: the unlisted byte only removes the entry. -/
def Memory.put (m : Memory) (k : Nat) (v : Byte) : Memory :=
  if v = Memory.unlisted then Memory.erase m k else Memory.insert (Memory.erase m k) k v

/-- `MemRead(addr, 1)` (R52). The address type takes addresses mod 2^16 (R53). -/
def Memory.read (m : Memory) (addr : Word) : Byte := Memory.get m addr.toNat

/-- `MemWrite(addr, 1, v)` (R52). -/
def Memory.write (m : Memory) (addr : Word) (v : Byte) : Memory := Memory.put m addr.toNat v

/-- Memory with a list of bytes written from an address on, one after another, addresses taken mod 2^16. -/
def Memory.writeList (m : Memory) (addr : Word) : List Byte → Memory
  | [] => m
  | v :: vs => Memory.writeList (Memory.write m addr v) (addr + 1) vs

/-- The byte of memory at an address. -/
def State.readByte (s : State) (addr : Word) : Byte := s.mem.read addr

/-- The state with one byte of memory written. -/
def State.writeByte (s : State) (addr : Word) (v : Byte) : State := { s with mem := s.mem.write addr v }

/-- Two bytes as a 16-bit datum: the byte at the lower address first (R57). -/
def orderBytes (order : ByteOrder) (first second : Byte) : Word :=
  match order with
  | .big => joinBytes first second
  | .little => joinBytes second first

/-- A 16-bit datum: the byte at the address and the byte after it, mod 2^16 (R57). -/
def State.readWide (s : State) (order : ByteOrder) (addr : Word) : Word :=
  orderBytes order (s.readByte addr) (s.readByte (addr + 1))

/-! ### Registers -/

/-- The current value of an 8-bit register of the `r` field (R111). -/
def State.reg8 (s : State) : Reg8 → Byte
  | .b => s.b
  | .c => s.c
  | .d => s.d
  | .e => s.e
  | .h => s.h
  | .l => s.l
  | .a => s.a

/-- The state with an 8-bit register written (R111). -/
def State.setReg8 (s : State) (r : Reg8) (v : Byte) : State :=
  match r with
  | .b => { s with b := v }
  | .c => { s with c := v }
  | .d => { s with d := v }
  | .e => { s with e := v }
  | .h => { s with h := v }
  | .l => { s with l := v }
  | .a => { s with a := v }

/-- The state with the whole of F written (R143). -/
def State.setF (s : State) (v : Byte) : State := { s with f := v }

/-- The pair's value `(high << 8) | low` (R23): B, D and H are the high halves. -/
def State.pair (s : State) : Pair → Word
  | .bc => joinBytes s.b s.c
  | .de => joinBytes s.d s.e
  | .hl => joinBytes s.h s.l

/-- A write to a pair writes its two halves (R24, D17). -/
def State.setPair (s : State) (p : Pair) (w : Word) : State :=
  match p with
  | .bc => { s with b := hiByte w, c := loByte w }
  | .de => { s with d := hiByte w, e := loByte w }
  | .hl => { s with h := hiByte w, l := loByte w }

/-- A write to a destination of the `dd` field (R161). -/
def State.setDest16 (s : State) (dd : Dest16) (w : Word) : State :=
  match dd with
  | .pair p => s.setPair p w
  | .sp => { s with sp := w }

/-- The index register X (R28, R79). -/
def State.idx (s : State) : Idx → Word
  | .ix => s.ix
  | .iy => s.iy

/-- The state with the index register X written (R165, R166). -/
def State.setIdx (s : State) (x : Idx) (w : Word) : State :=
  match x with
  | .ix => { s with ix := w }
  | .iy => { s with iy := w }

/-! ### Program counter and displacements -/

/-- `sext_16(v)`: a signed 8-bit displacement as a 16-bit addend (R8). -/
def sext16 (v : Byte) : Word := v.signExtend 16

/-- PC moved past `n` instruction bytes, mod 2^16 (R30). -/
def State.advance (s : State) (n : Nat) : State := { s with pc := s.pc + BitVec.ofNat 16 n }

/-- PC at a target (R201). -/
def State.jump (s : State) (target : Word) : State := { s with pc := target }

/-- PC moved by a signed displacement; PC is already past the instruction (R117, R203). -/
def State.jumpRel (s : State) (e : Byte) : State := s.jump (s.pc + sext16 e)

/-! ### The diagnostic report -/

/-- One event on the `diag` port (R221). -/
def State.emit (s : State) (ev : DiagEvent) : State := { s with events := s.events ++ [ev] }

/-- `report Diag(table, byte)` under UNKNOWN_POLICY (R86, R87, R222, D28): under DIAG the event is emitted and nothing else
changes (PC has already passed the bytes fetched); under REFUSE the step is refused. -/
def reportUnknown (policy : UnknownPolicy) (table : TableId) (byte : Byte) (s : State) : Outcome :=
  match policy with
  | .diag => .next (s.emit ⟨table, byte⟩)
  | .refuse => .refused (.unknownOpcode table byte)

end Sys2Proof.Machine
end

