-- ==== Sys2Proof/Machine/Operands.lean ====
section
/-! DEFINITION. The address-mode resolver (40_address_modes.md). The operand bytes are already in the instruction; the resolver
computes the one effective address and reads or writes it. -/

namespace Sys2Proof.Machine

open Sys2Proof

/-- The modes that can be written as well as read (R110). -/
inductive Place where
  /-- register-direct (R111) -/
  | reg (r : Reg8)
  /-- register-indirect (R112) -/
  | indirect (p : Pair)
  /-- indexed-with-displacement (R113) -/
  | indexed (x : Idx) (d : Byte)
  /-- extended direct (R116) -/
  | direct (nn : Word)
  deriving DecidableEq, Repr

/-- The modes that give an 8-bit value: a place, or an immediate, which is never a write target (R114). -/
inductive Operand where
  | place (p : Place)
  | imm8 (n : Byte)
  deriving DecidableEq, Repr

/-- What a place resolves to: a register, or a byte of memory at an effective address (R110). -/
inductive Target where
  | reg (r : Reg8)
  | mem (addr : Word)
  deriving DecidableEq, Repr

/-- The effective address of (X+d), mod 2^16 (R113). -/
def State.indexedAddr (s : State) (x : Idx) (d : Byte) : Word := s.idx x + sext16 d

/-- Resolves a place in the state before the instruction writes anything (R112, R119). -/
def Place.resolve (s : State) : Place → Target
  | .reg r => .reg r
  | .indirect p => .mem (s.pair p)
  | .indexed x d => .mem (s.indexedAddr x d)
  | .direct nn => .mem nn

/-- `ReadOp` of a resolved place (R111, R112). -/
def State.readTarget (s : State) : Target → Byte
  | .reg r => s.reg8 r
  | .mem addr => s.readByte addr

/-- `WriteOp` of a resolved place (R111, R112). -/
def State.writeTarget (s : State) (t : Target) (v : Byte) : State :=
  match t with
  | .reg r => s.setReg8 r v
  | .mem addr => s.writeByte addr v

/-- The value of an operand (R110). -/
def State.readOperand (s : State) : Operand → Byte
  | .place p => s.readTarget (p.resolve s)
  | .imm8 n => n

/-- An 8-bit load: the source is read, then the destination, resolved in the same state, is written (R66, R119, R168). -/
def State.load8 (s : State) (dst : Place) (src : Operand) : State :=
  s.writeTarget (dst.resolve s) (s.readOperand src)

end Sys2Proof.Machine
end

