-- ==== Sys2Proof/Machine/Flags.lean ====
section
/-! DEFINITION. The ALU and flag unit (41_flag_unit.md): the arithmetic and the logical derivation, the F byte, and which
instruction routes through which. Also the conditions of 44_control.md R206, which read F. -/

namespace Sys2Proof.Machine

open Sys2Proof

/-! ### The flag bits of F (R32) -/

/-- F.C, bit 0. -/
def flagC (f : Byte) : Bool := f.getLsbD 0

/-- F.N, bit 1. -/
def flagN (f : Byte) : Bool := f.getLsbD 1

/-- F.PV, bit 2. -/
def flagPV (f : Byte) : Bool := f.getLsbD 2

/-- F.H, bit 4. -/
def flagH (f : Byte) : Bool := f.getLsbD 4

/-- F.Z, bit 6. -/
def flagZ (f : Byte) : Bool := f.getLsbD 6

/-- F.S, bit 7. -/
def flagS (f : Byte) : Bool := f.getLsbD 7

/-- The F byte from its six flags; bits 5 and 3 are 0 (R139, R143). -/
def packFlags (s z h pv n c : Bool) : Byte :=
  (BitVec.ofBool s ++ BitVec.ofBool z ++ 0#1 ++ BitVec.ofBool h ++ 0#1 ++ BitVec.ofBool pv ++ BitVec.ofBool n ++
    BitVec.ofBool c : BitVec (1 + 1 + 1 + 1 + 1 + 1 + 1 + 1))

/-! ### The arithmetic derivation -/

/-- The raw result, an integer with no wrap (R131). -/
def rawResult (a b : Byte) (cin sub : Bool) : Int :=
  if sub then (a.toNat : Int) - b.toNat - cin.toNat else (a.toNat : Int) + b.toNat + cin.toNat

/-- The truncated result (R132). -/
def truncResult (a b : Byte) (cin sub : Bool) : Byte := BitVec.ofInt 8 (rawResult a b cin sub)

/-- Carry or borrow out of the byte (R133). -/
def carryOut (a b : Byte) (cin sub : Bool) : Bool :=
  if sub then decide (rawResult a b cin sub < 0) else decide (rawResult a b cin sub > 0xFF)

/-- Carry out of, or borrow into, bit 3 (R135, D6). -/
def halfCarry (a b : Byte) (cin sub : Bool) : Bool :=
  let a4 : Int := a.toNat % 16
  let b4 : Int := b.toNat % 16
  if sub then decide (a4 - b4 - cin.toNat < 0) else decide (a4 + b4 + cin.toNat > 0xF)

/-- Signed 8-bit overflow (R136, D6). -/
def signedOverflow (a b : Byte) (cin sub : Bool) : Bool :=
  let res := truncResult a b cin sub
  if sub then a.msb != b.msb && res.msb != a.msb else a.msb == b.msb && res.msb != a.msb

/-- `Arith(a, b, cin, sub)` (R130): the truncated result and the whole new F (R131 to R139, R143). -/
def arith (a b : Byte) (cin sub : Bool) : Byte × Byte :=
  let res := truncResult a b cin sub
  (res, packFlags res.msb (res == 0) (halfCarry a b cin sub) (signedOverflow a b cin sub) sub (carryOut a b cin sub))

/-! ### The logical derivation -/

/-- The number of 1 bits (R7). -/
def popcount (v : Byte) : Nat := ((List.range 8).filter fun k => v.getLsbD k).length

/-- `Logic(res)` (R130): the result and the whole new F, with even parity in PV and H, N, C clear (R140 to R142, D7). -/
def logic (res : Byte) : Byte × Byte :=
  (res, packFlags res.msb (res == 0) false (popcount res % 2 == 0) false false)

/-! ### Routing (R144) -/

/-- The result and F of a two-operand ALU mnemonic on A = `a` and operand `v`, with carry-in `cin` = F.C, which only ADC and SBC
use (R144, R146). -/
def aluEval (op : AluOp) (a v : Byte) (cin : Bool) : Byte × Byte :=
  match op with
  | .add => arith a v false false
  | .adc => arith a v cin false
  | .sub => arith a v false true
  | .sbc => arith a v cin true
  | .cp => arith a v false true
  | .and => logic (a &&& v)
  | .xor => logic (a ^^^ v)
  | .or => logic (a ||| v)

/-- CP discards the result; the other seven write it to A (R144). -/
def aluWritesA : AluOp → Bool
  | .cp => false
  | .add | .adc | .sub | .sbc | .and | .xor | .or => true

/-- A two-operand ALU instruction: the operand is read, the ALU evaluates with the old F, then A (except for CP) and the whole of
F are written (R143, R144, R180). -/
def State.alu (s : State) (op : AluOp) (src : Operand) : State :=
  let out := aluEval op s.a (s.readOperand src) (flagC s.f)
  { s with a := if aluWritesA op then out.1 else s.a, f := out.2 }

/-- INC (`sub` false) or DEC (`sub` true) of a place, resolved once: read, `Arith(v, 1, 0, sub)`, write back, write F (R189,
R190). -/
def State.incDec (s : State) (p : Place) (sub : Bool) : State :=
  let t := p.resolve s
  let out := arith (s.readTarget t) 1 false sub
  (s.writeTarget t out.1).setF out.2

/-! ### Conditions -/

/-- `cond(cc)`, which reads only F (R206). -/
def condHolds (cc : Cond) (f : Byte) : Bool :=
  match cc with
  | .nz => !flagZ f
  | .z => flagZ f
  | .nc => !flagC f
  | .c => flagC f
  | .po => !flagPV f
  | .pe => flagPV f
  | .p => !flagS f
  | .m => flagS f

end Sys2Proof.Machine
end

