-- ==== Sys2Proof/Machine/Arith.lean ====
section
/-! DEFINITION. Arithmetic and logic (43_arith_logic.md). The operand forms of the eight two-operand mnemonics are R180's. -/

namespace Sys2Proof.Machine

open Sys2Proof

/-- ADD A,r (R181). -/
def execAddR (r : Reg8) (s : State) : Outcome := .next (s.alu .add (.place (.reg r)))

/-- ADD A,(HL) (R181). -/
def execAddHl (s : State) : Outcome := .next (s.alu .add (.place (.indirect .hl)))

/-- ADD A,n (R181). -/
def execAddN (n : Byte) (s : State) : Outcome := .next (s.alu .add (.imm8 n))

/-- ADD A,(X+d) (R181). -/
def execAddXd (x : Idx) (d : Byte) (s : State) : Outcome := .next (s.alu .add (.place (.indexed x d)))

/-- ADC A,r (R182). -/
def execAdcR (r : Reg8) (s : State) : Outcome := .next (s.alu .adc (.place (.reg r)))

/-- ADC A,(HL) (R182). -/
def execAdcHl (s : State) : Outcome := .next (s.alu .adc (.place (.indirect .hl)))

/-- ADC A,n (R182). -/
def execAdcN (n : Byte) (s : State) : Outcome := .next (s.alu .adc (.imm8 n))

/-- ADC A,(X+d) (R182). -/
def execAdcXd (x : Idx) (d : Byte) (s : State) : Outcome := .next (s.alu .adc (.place (.indexed x d)))

/-- SUB r (R183). -/
def execSubR (r : Reg8) (s : State) : Outcome := .next (s.alu .sub (.place (.reg r)))

/-- SUB (HL) (R183). -/
def execSubHl (s : State) : Outcome := .next (s.alu .sub (.place (.indirect .hl)))

/-- SUB n (R183). -/
def execSubN (n : Byte) (s : State) : Outcome := .next (s.alu .sub (.imm8 n))

/-- SUB (X+d) (R183). -/
def execSubXd (x : Idx) (d : Byte) (s : State) : Outcome := .next (s.alu .sub (.place (.indexed x d)))

/-- SBC A,r (R184). -/
def execSbcR (r : Reg8) (s : State) : Outcome := .next (s.alu .sbc (.place (.reg r)))

/-- SBC A,(HL) (R184). -/
def execSbcHl (s : State) : Outcome := .next (s.alu .sbc (.place (.indirect .hl)))

/-- SBC A,n (R184). -/
def execSbcN (n : Byte) (s : State) : Outcome := .next (s.alu .sbc (.imm8 n))

/-- SBC A,(X+d) (R184). -/
def execSbcXd (x : Idx) (d : Byte) (s : State) : Outcome := .next (s.alu .sbc (.place (.indexed x d)))

/-- AND r (R185). -/
def execAndR (r : Reg8) (s : State) : Outcome := .next (s.alu .and (.place (.reg r)))

/-- AND (HL) (R185). -/
def execAndHl (s : State) : Outcome := .next (s.alu .and (.place (.indirect .hl)))

/-- AND n (R185). -/
def execAndN (n : Byte) (s : State) : Outcome := .next (s.alu .and (.imm8 n))

/-- AND (X+d) (R185). -/
def execAndXd (x : Idx) (d : Byte) (s : State) : Outcome := .next (s.alu .and (.place (.indexed x d)))

/-- XOR r (R186). -/
def execXorR (r : Reg8) (s : State) : Outcome := .next (s.alu .xor (.place (.reg r)))

/-- XOR (HL) (R186). -/
def execXorHl (s : State) : Outcome := .next (s.alu .xor (.place (.indirect .hl)))

/-- XOR n (R186). -/
def execXorN (n : Byte) (s : State) : Outcome := .next (s.alu .xor (.imm8 n))

/-- XOR (X+d) (R186). -/
def execXorXd (x : Idx) (d : Byte) (s : State) : Outcome := .next (s.alu .xor (.place (.indexed x d)))

/-- OR r (R187). -/
def execOrR (r : Reg8) (s : State) : Outcome := .next (s.alu .or (.place (.reg r)))

/-- OR (HL) (R187). -/
def execOrHl (s : State) : Outcome := .next (s.alu .or (.place (.indirect .hl)))

/-- OR n (R187). -/
def execOrN (n : Byte) (s : State) : Outcome := .next (s.alu .or (.imm8 n))

/-- OR (X+d) (R187). -/
def execOrXd (x : Idx) (d : Byte) (s : State) : Outcome := .next (s.alu .or (.place (.indexed x d)))

/-- CP r (R188). -/
def execCpR (r : Reg8) (s : State) : Outcome := .next (s.alu .cp (.place (.reg r)))

/-- CP (HL) (R188). -/
def execCpHl (s : State) : Outcome := .next (s.alu .cp (.place (.indirect .hl)))

/-- CP n (R188). -/
def execCpN (n : Byte) (s : State) : Outcome := .next (s.alu .cp (.imm8 n))

/-- CP (X+d) (R188). -/
def execCpXd (x : Idx) (d : Byte) (s : State) : Outcome := .next (s.alu .cp (.place (.indexed x d)))

/-- INC r (R189). -/
def execIncR (r : Reg8) (s : State) : Outcome := .next (s.incDec (.reg r) false)

/-- INC (HL) (R189). -/
def execIncHl (s : State) : Outcome := .next (s.incDec (.indirect .hl) false)

/-- INC (X+d) (R189). -/
def execIncXd (x : Idx) (d : Byte) (s : State) : Outcome := .next (s.incDec (.indexed x d) false)

/-- DEC r (R190). -/
def execDecR (r : Reg8) (s : State) : Outcome := .next (s.incDec (.reg r) true)

/-- DEC (HL) (R190). -/
def execDecHl (s : State) : Outcome := .next (s.incDec (.indirect .hl) true)

/-- DEC (X+d) (R190). -/
def execDecXd (x : Idx) (d : Byte) (s : State) : Outcome := .next (s.incDec (.indexed x d) true)

end Sys2Proof.Machine
end

