-- ==== Sys2Proof/Machine/Control.lean ====
section
/-! DEFINITION. Control transfer, NOP, and the escape bytes with an unknown second byte (44_control.md, 30_encoding.md R87). PC
is already past the instruction's bytes (R31), so a jump that is not taken changes nothing. -/

namespace Sys2Proof.Machine

open Sys2Proof

/-- NOP (R200). -/
def execNop (s : State) : Outcome := .next s

/-- JP nn (R201). -/
def execJp (nn : Word) (s : State) : Outcome := .next (s.jump nn)

/-- JP cc,nn (R202). -/
def execJpCc (cc : Cond) (nn : Word) (s : State) : Outcome := .next (if condHolds cc s.f then s.jump nn else s)

/-- JR e (R203). -/
def execJr (e : Byte) (s : State) : Outcome := .next (s.jumpRel e)

/-- JR cc,e (R204). -/
def execJrCc (cc : Cond) (e : Byte) (s : State) : Outcome := .next (if condHolds cc s.f then s.jumpRel e else s)

/-- B less one, mod 2^8, without flags (R205, D18). -/
def State.decB (s : State) : State := { s with b := s.b - 1 }

/-- DJNZ e (R205). -/
def execDjnz (e : Byte) (s : State) : Outcome := .next (if s.decB.b != 0 then s.decB.jumpRel e else s.decB)

/-- 0xDD before a second byte `o` that is no row of the DD table (R87, R88): one event, nothing else. -/
def execPrefixDD (o : Byte) (s : State) : Outcome := reportUnknown Config.unknownPolicy .dd o s

/-- 0xFD before a second byte `o` that is no row of the FD table (R87, R88): one event, nothing else. -/
def execPrefixFD (o : Byte) (s : State) : Outcome := reportUnknown Config.unknownPolicy .fd o s

end Sys2Proof.Machine
end

