-- ==== Sys2Proof/Machine/Loads.lean ====
section
/-! DEFINITION. The loads (42_loads.md). In every meaning PC is already past the instruction's bytes (R31), and no load writes F
(R168). -/

namespace Sys2Proof.Machine

open Sys2Proof

/-- LD r,r' (R150). -/
def execLdRR (dst src : Reg8) (s : State) : Outcome := .next (s.load8 (.reg dst) (.place (.reg src)))

/-- LD r,(HL) (R151). -/
def execLdRHl (r : Reg8) (s : State) : Outcome := .next (s.load8 (.reg r) (.place (.indirect .hl)))

/-- LD (HL),r (R152). -/
def execLdHlR (r : Reg8) (s : State) : Outcome := .next (s.load8 (.indirect .hl) (.place (.reg r)))

/-- LD r,n (R153). -/
def execLdRN (r : Reg8) (n : Byte) (s : State) : Outcome := .next (s.load8 (.reg r) (.imm8 n))

/-- LD (HL),n (R154). -/
def execLdHlN (n : Byte) (s : State) : Outcome := .next (s.load8 (.indirect .hl) (.imm8 n))

/-- LD A,(BC) (R155). -/
def execLdABc (s : State) : Outcome := .next (s.load8 (.reg .a) (.place (.indirect .bc)))

/-- LD A,(DE) (R156). -/
def execLdADe (s : State) : Outcome := .next (s.load8 (.reg .a) (.place (.indirect .de)))

/-- LD (BC),A (R157). -/
def execLdBcA (s : State) : Outcome := .next (s.load8 (.indirect .bc) (.place (.reg .a)))

/-- LD (DE),A (R158). -/
def execLdDeA (s : State) : Outcome := .next (s.load8 (.indirect .de) (.place (.reg .a)))

/-- LD A,(nn) (R159). -/
def execLdADir (nn : Word) (s : State) : Outcome := .next (s.load8 (.reg .a) (.place (.direct nn)))

/-- LD (nn),A (R160). -/
def execLdDirA (nn : Word) (s : State) : Outcome := .next (s.load8 (.direct nn) (.place (.reg .a)))

/-- LD dd,nn (R161). -/
def execLdDdNn (dd : Dest16) (nn : Word) (s : State) : Outcome := .next (s.setDest16 dd nn)

/-- LD r,(X+d) (R162). -/
def execLdRXd (x : Idx) (r : Reg8) (d : Byte) (s : State) : Outcome := .next (s.load8 (.reg r) (.place (.indexed x d)))

/-- LD (X+d),r (R163). -/
def execLdXdR (x : Idx) (r : Reg8) (d : Byte) (s : State) : Outcome := .next (s.load8 (.indexed x d) (.place (.reg r)))

/-- LD (X+d),n (R164). -/
def execLdXdN (x : Idx) (d n : Byte) (s : State) : Outcome := .next (s.load8 (.indexed x d) (.imm8 n))

/-- LD X,nn (R165). -/
def execLdXNn (x : Idx) (nn : Word) (s : State) : Outcome := .next (s.setIdx x nn)

/-- LD X,(nn) (R166): two data bytes in the order WIDE_DATA_ORDER (R57). -/
def execLdXDir (x : Idx) (nn : Word) (s : State) : Outcome := .next (s.setIdx x (s.readWide Config.wideDataOrder nn))

/-- LD r,n after an escape byte (R167): the effect of R153; X is neither read nor written. -/
def execLdRNPrefixed (_x : Idx) (r : Reg8) (n : Byte) (s : State) : Outcome := .next (s.load8 (.reg r) (.imm8 n))

end Sys2Proof.Machine
end

