-- ==== Sys2Proof/Machine/Dispatch.lean ====
section
/-! DEFINITION. Dispatch: one arm per constructor of `Instr`, each one call of its meaning. -/

namespace Sys2Proof.Machine

open Sys2Proof

def exec (i : Instr) (s : State) : Host.Outcome State Fault Refusal :=
  match i with
  | .ldRR dst src => Sys2Proof.Machine.execLdRR dst src s
  | .ldRHl r => Sys2Proof.Machine.execLdRHl r s
  | .ldHlR r => Sys2Proof.Machine.execLdHlR r s
  | .ldRN r n => Sys2Proof.Machine.execLdRN r n s
  | .ldHlN n => Sys2Proof.Machine.execLdHlN n s
  | .ldABc => Sys2Proof.Machine.execLdABc s
  | .ldADe => Sys2Proof.Machine.execLdADe s
  | .ldBcA => Sys2Proof.Machine.execLdBcA s
  | .ldDeA => Sys2Proof.Machine.execLdDeA s
  | .ldADir nn => Sys2Proof.Machine.execLdADir nn s
  | .ldDirA nn => Sys2Proof.Machine.execLdDirA nn s
  | .ldDdNn dd nn => Sys2Proof.Machine.execLdDdNn dd nn s
  | .ldRXd x r d => Sys2Proof.Machine.execLdRXd x r d s
  | .ldXdR x r d => Sys2Proof.Machine.execLdXdR x r d s
  | .ldXdN x d n => Sys2Proof.Machine.execLdXdN x d n s
  | .ldXNn x nn => Sys2Proof.Machine.execLdXNn x nn s
  | .ldXDir x nn => Sys2Proof.Machine.execLdXDir x nn s
  | .ldRNPrefixed x r n => Sys2Proof.Machine.execLdRNPrefixed x r n s
  | .addR r => Sys2Proof.Machine.execAddR r s
  | .adcR r => Sys2Proof.Machine.execAdcR r s
  | .subR r => Sys2Proof.Machine.execSubR r s
  | .sbcR r => Sys2Proof.Machine.execSbcR r s
  | .andR r => Sys2Proof.Machine.execAndR r s
  | .xorR r => Sys2Proof.Machine.execXorR r s
  | .orR r => Sys2Proof.Machine.execOrR r s
  | .cpR r => Sys2Proof.Machine.execCpR r s
  | .addHl => Sys2Proof.Machine.execAddHl s
  | .adcHl => Sys2Proof.Machine.execAdcHl s
  | .subHl => Sys2Proof.Machine.execSubHl s
  | .sbcHl => Sys2Proof.Machine.execSbcHl s
  | .andHl => Sys2Proof.Machine.execAndHl s
  | .xorHl => Sys2Proof.Machine.execXorHl s
  | .orHl => Sys2Proof.Machine.execOrHl s
  | .cpHl => Sys2Proof.Machine.execCpHl s
  | .addN n => Sys2Proof.Machine.execAddN n s
  | .adcN n => Sys2Proof.Machine.execAdcN n s
  | .subN n => Sys2Proof.Machine.execSubN n s
  | .sbcN n => Sys2Proof.Machine.execSbcN n s
  | .andN n => Sys2Proof.Machine.execAndN n s
  | .xorN n => Sys2Proof.Machine.execXorN n s
  | .orN n => Sys2Proof.Machine.execOrN n s
  | .cpN n => Sys2Proof.Machine.execCpN n s
  | .addXd x d => Sys2Proof.Machine.execAddXd x d s
  | .adcXd x d => Sys2Proof.Machine.execAdcXd x d s
  | .subXd x d => Sys2Proof.Machine.execSubXd x d s
  | .sbcXd x d => Sys2Proof.Machine.execSbcXd x d s
  | .andXd x d => Sys2Proof.Machine.execAndXd x d s
  | .xorXd x d => Sys2Proof.Machine.execXorXd x d s
  | .orXd x d => Sys2Proof.Machine.execOrXd x d s
  | .cpXd x d => Sys2Proof.Machine.execCpXd x d s
  | .incR r => Sys2Proof.Machine.execIncR r s
  | .incHl => Sys2Proof.Machine.execIncHl s
  | .incXd x d => Sys2Proof.Machine.execIncXd x d s
  | .decR r => Sys2Proof.Machine.execDecR r s
  | .decHl => Sys2Proof.Machine.execDecHl s
  | .decXd x d => Sys2Proof.Machine.execDecXd x d s
  | .nop => Sys2Proof.Machine.execNop s
  | .jp nn => Sys2Proof.Machine.execJp nn s
  | .jpCc cc nn => Sys2Proof.Machine.execJpCc cc nn s
  | .jr e => Sys2Proof.Machine.execJr e s
  | .jrCc cc e => Sys2Proof.Machine.execJrCc cc e s
  | .djnz e => Sys2Proof.Machine.execDjnz e s
  | .prefixDD o => Sys2Proof.Machine.execPrefixDD o s
  | .prefixFD o => Sys2Proof.Machine.execPrefixFD o s

end Sys2Proof.Machine
end

