-- ==== Sys2Proof/Machine/Step.lean ====
section
/-! DEFINITION. One step (30_encoding.md R77): the bytes at PC are decoded, PC moves past the bytes the decoded instruction
consumes (R81), and the instruction runs. Machine/Fetch.lean has the same step byte by byte, as R77's pseudocode has it. -/

namespace Sys2Proof.Machine

open Sys2Proof

/-- The four bytes from PC on, addresses mod 2^16 (R53, R70). A read has no side effect (R61), so looking at all four changes
nothing (log entry 2). -/
def State.fetchWindow (s : State) : List Byte :=
  [s.readByte s.pc, s.readByte (s.pc + 1), s.readByte (s.pc + 2), s.readByte (s.pc + 3)]

/-- `step()` (R77, R244). It does not test the halt sentinel. -/
def step (s : State) : Host.Outcome State Fault Refusal :=
  match decode s.fetchWindow with
  | .instr i => exec i (s.advance i.length)
  | .unknown o => reportUnknown Config.unknownPolicy .primary o (s.advance 1)

/-- The state with a table word's bytes at PC, so that the next step runs it (log entry 10). -/
def State.withFetchWord (s : State) (nbits w : Nat) : State :=
  { s with mem := s.mem.writeList s.pc (tableWordBytes nbits w) }

end Sys2Proof.Machine
end

