-- ==== Sys2Proof/Machine/Fetch.lean ====
section
/-! DEFINITION. The decode state machine byte by byte, as R77 writes it: fetch the opcode, fetch the second opcode byte after an
escape byte, resolve the operand bytes, execute. `step` is the handier form; that the two are equal is an obligation. -/

namespace Sys2Proof.Machine

open Sys2Proof

/-- `fetch8()` (R9): the byte at PC, and the state with PC advanced by one. -/
def State.fetch8 (s : State) : Byte × State := (s.readByte s.pc, s.advance 1)

/-- Fetches the operand bytes of a row in order and runs the instruction they complete (R82, R83, R84, R118). -/
def State.runRow (s : State) (row : OpRow) : Outcome :=
  match row.format.operandBytes with
  | 0 => exec (row.build 0 0) s
  | 1 => exec (row.build s.fetch8.1 0) s.fetch8.2
  | _ => exec (row.build s.fetch8.1 s.fetch8.2.fetch8.1) s.fetch8.2.fetch8.2

/-- The second decode state (R77, R87): the second opcode byte is fetched and looked up in X's table. -/
def State.runEscaped (s : State) (x : Idx) (table : TableId) : Outcome :=
  match escapedRow x s.fetch8.1 with
  | some row => s.fetch8.2.runRow row
  | none => reportUnknown Config.unknownPolicy table s.fetch8.1 s.fetch8.2

/-- R77's `step()`. -/
def stepByFetch (s : State) : Outcome :=
  let o := s.fetch8.1
  let s1 := s.fetch8.2
  if o = 0xDD then s1.runEscaped .ix .dd
  else if o = 0xFD then s1.runEscaped .iy .fd
  else
    match primaryRow o with
    | some row => s1.runRow row
    | none => reportUnknown Config.unknownPolicy .primary o s1

end Sys2Proof.Machine
end

