-- ==== Sys2Proof/Machine/HostPorts.lean ====
section
/-! DEFINITION. The host interface (70_reset_and_hazards.md R240 to R248): reset, the image load, halt detection, the event of a
step, the sink that receives it, and the run loop under fuel. `step` and the fields of `State` (the read-out port) are the other ports of R246. -/

namespace Sys2Proof.Machine

open Sys2Proof

/-- The `reset` port: construction again, whatever the state was (R240, D31). -/
def State.applyReset (_s : State) : State := State.reset

/-- The `load(img)` port (R242): `Mem[i] <- img[i]`; an image longer than memory is refused and loads nothing. The host calls it
after reset and before the first step (D24; log entry 11). -/
def State.load (img : List Byte) (s : State) : Outcome :=
  if img.length ≤ Config.memSize then .next { s with mem := s.mem.writeList 0 img } else .refused .imageTooLong

/-- Reset, then load (R241, R242). -/
def boot (img : List Byte) : Outcome := State.reset.load img

/-- `halt_detect` (R246, D25): the byte at PC is the sentinel. It changes nothing. -/
def State.haltDetect (s : State) : Bool := s.readByte s.pc == Config.haltSentinel

/-- The event the `diag` port carries for the step from `s`, if any (R221, R246). -/
def stepEvent (s : State) : Option DiagEvent :=
  match step s with
  | .next t => t.events[s.events.length]?
  | .fault _ => none
  | .refused _ => none

/-- The events delivered to the sink in order (R221, R246). -/
def deliver {κ : Type} (diagSink : DiagSink DiagEvent κ) (k : κ) (evs : List DiagEvent) : κ := evs.foldl diagSink k

/-- A step with its `diag` port wired to the sink DIAG_SINK, whose condition is `k`: the step's outcome, which does not depend on the
sink (R223: the block does not wait for it), and the sink's condition after. -/
def stepInto {κ : Type} (diagSink : DiagSink DiagEvent κ) (k : κ) (s : State) : Outcome × κ :=
  (step s, deliver diagSink k (stepEvent s).toList)

/-- How a run under fuel ends (R247, R248, D30). `emitted` is the list of events emitted during the run, whatever was emitted before
it began. -/
inductive RunResult where
  /-- The byte at PC is the sentinel: the run's end state, with the events of the run. -/
  | halted (s : State) (emitted : List DiagEvent)
  /-- Fuel ran out: no end reached, never an end state. -/
  | noEnd (s : State) (emitted : List DiagEvent)
  /-- A step was refused (only under UNKNOWN_POLICY = REFUSE). -/
  | refused (r : Refusal) (emitted : List DiagEvent)
  deriving DecidableEq, Repr

/-- The events of the run. -/
def RunResult.emitted : RunResult → List DiagEvent
  | .halted _ evs | .noEnd _ evs | .refused _ evs => evs

/-- The result of a run that began one step earlier, with that step's event first. -/
def RunResult.after (ev : Option DiagEvent) : RunResult → RunResult
  | .halted s evs => .halted s (ev.toList ++ evs)
  | .noEnd s evs => .noEnd s (ev.toList ++ evs)
  | .refused r evs => .refused r (ev.toList ++ evs)

/-- `runUntilHalt` (R245) for at most `fuel` steps: peek at the byte at PC, stop on the sentinel without consuming it, else step.
The trace lines are not modelled (R3, R231, D29). -/
def runUntilHalt : Nat → State → RunResult
  | 0, s => if s.haltDetect then .halted s [] else .noEnd s []
  | fuel + 1, s =>
    if s.haltDetect then .halted s []
    else
      match step s with
      | .next t => (runUntilHalt fuel t).after (stepEvent s)
      | .fault r => nomatch r
      | .refused r => .refused r []

/-- A run with its `diag` port wired to the sink DIAG_SINK: the run's result, and the sink's condition after the run's events. -/
def runInto {κ : Type} (diagSink : DiagSink DiagEvent κ) (k : κ) (fuel : Nat) (s : State) : RunResult × κ :=
  (runUntilHalt fuel s, deliver diagSink k (runUntilHalt fuel s).emitted)

end Sys2Proof.Machine
end

