-- ==== Sys2Proof/Safety.lean ====
section
/-! DEFINITION. The terms claims are stated in: the invariant of the machine, frames (what an instruction leaves unchanged), which
instruction writes what (R37, R59), and which bytes are unknown opcodes (R86, R87), each written out from the spec and not from
the decoder or the meanings. -/

namespace Sys2Proof.Machine

open Sys2Proof

/-! ### The invariant -/

/-- The shadow bank, I and R read 0 (R26, R27). -/
abbrev State.InertZero (s : State) : Prop :=
  s.a' = 0 ∧ s.f' = 0 ∧ s.b' = 0 ∧ s.c' = 0 ∧ s.d' = 0 ∧ s.e' = 0 ∧ s.h' = 0 ∧ s.l' = 0 ∧ s.i = 0 ∧ s.r = 0

/-- What holds at every step boundary: memory is in canonical form with every address below MEM_SIZE (R50), `F[5] = F[3] = 0`
(R32), and the registers no instruction reaches still hold their reset value 0 (R26, R27). -/
abbrev State.Inv (s : State) : Prop :=
  Memory.wf s.mem ∧ s.f.getLsbD 5 = false ∧ s.f.getLsbD 3 = false ∧ s.InertZero

/-! ### Frames -/

/-- The seven registers A, B, C, D, E, H, L are unchanged, except perhaps those of the list. -/
def KeepsReg8Except (changed : List Reg8) (s t : State) : Prop :=
  ∀ r, r ∉ changed → t.reg8 r = s.reg8 r

/-- The index registers and SP are unchanged. -/
def KeepsWide (s t : State) : Prop := t.ix = s.ix ∧ t.iy = s.iy ∧ t.sp = s.sp

/-- The shadow bank, I and R are unchanged. -/
def KeepsInert (s t : State) : Prop :=
  t.a' = s.a' ∧ t.f' = s.f' ∧ t.b' = s.b' ∧ t.c' = s.c' ∧ t.d' = s.d' ∧ t.e' = s.e' ∧ t.h' = s.h' ∧ t.l' = s.l' ∧
    t.i = s.i ∧ t.r = s.r

/-- Every byte of memory is unchanged. -/
def KeepsMemory (s t : State) : Prop := ∀ a : Word, t.readByte a = s.readByte a

/-- One byte of memory holds `v`, and every other byte is unchanged. -/
def StoresByte (addr : Word) (v : Byte) (s t : State) : Prop :=
  ∀ a : Word, t.readByte a = if a = addr then v else s.readByte a

/-- F, IX, IY, SP, the shadow bank, I, R, PC and the emitted events are unchanged: all but A to L and memory. -/
def KeepsControl (s t : State) : Prop :=
  t.f = s.f ∧ t.pc = s.pc ∧ t.events = s.events ∧ KeepsWide s t ∧ KeepsInert s t

/-- A load into register `r` of `v` and nothing else (R168: "A load writes exactly its destination and PC"; PC is already past
the instruction). -/
def LoadsReg8 (r : Reg8) (v : Byte) (s t : State) : Prop :=
  t.reg8 r = v ∧ KeepsReg8Except [r] s t ∧ KeepsControl s t ∧ KeepsMemory s t

/-- A store of `v` to the byte at `addr` and nothing else. -/
def StoresOnly (addr : Word) (v : Byte) (s t : State) : Prop :=
  StoresByte addr v s t ∧ KeepsReg8Except [] s t ∧ KeepsControl s t

/-! ### Writers (R33, R37, R59) -/

/-- The ten flag-producing mnemonics, all forms (R33, R144). -/
def writesF : Instr → Bool
  | .addR .. | .adcR .. | .subR .. | .sbcR .. | .andR .. | .xorR .. | .orR .. | .cpR .. => true
  | .addHl | .adcHl | .subHl | .sbcHl | .andHl | .xorHl | .orHl | .cpHl => true
  | .addN .. | .adcN .. | .subN .. | .sbcN .. | .andN .. | .xorN .. | .orN .. | .cpN .. => true
  | .addXd .. | .adcXd .. | .subXd .. | .sbcXd .. | .andXd .. | .xorXd .. | .orXd .. | .cpXd .. => true
  | .incR .. | .incHl | .incXd .. | .decR .. | .decHl | .decXd .. => true
  | .ldRR .. | .ldRHl .. | .ldHlR .. | .ldRN .. | .ldHlN .. | .ldABc | .ldADe | .ldBcA | .ldDeA | .ldADir .. | .ldDirA .. => false
  | .ldDdNn .. | .ldRXd .. | .ldXdR .. | .ldXdN .. | .ldXNn .. | .ldXDir .. | .ldRNPrefixed .. => false
  | .nop | .jp .. | .jpCc .. | .jr .. | .jrCc .. | .djnz .. | .prefixDD .. | .prefixFD .. => false

/-- The flag-producing instructions that read C: ADC and SBC, all forms (R33, R146). -/
def readsCarry : Instr → Bool
  | .adcR .. | .adcHl | .adcN .. | .adcXd .. | .sbcR .. | .sbcHl | .sbcN .. | .sbcXd .. => true
  | .addR .. | .addHl | .addN .. | .addXd .. | .subR .. | .subHl | .subN .. | .subXd .. => false
  | .andR .. | .andHl | .andN .. | .andXd .. | .xorR .. | .xorHl | .xorN .. | .xorXd .. => false
  | .orR .. | .orHl | .orN .. | .orXd .. | .cpR .. | .cpHl | .cpN .. | .cpXd .. => false
  | .incR .. | .incHl | .incXd .. | .decR .. | .decHl | .decXd .. => false
  | .ldRR .. | .ldRHl .. | .ldHlR .. | .ldRN .. | .ldHlN .. | .ldABc | .ldADe | .ldBcA | .ldDeA | .ldADir .. | .ldDirA .. => false
  | .ldDdNn .. | .ldRXd .. | .ldXdR .. | .ldXdN .. | .ldXNn .. | .ldXDir .. | .ldRNPrefixed .. => false
  | .nop | .jp .. | .jpCc .. | .jr .. | .jrCc .. | .djnz .. | .prefixDD .. | .prefixFD .. => false

/-- The registers among A, B, C, D, E, H, L an instruction writes, by the rows of R37. -/
def reg8Written : Instr → List Reg8
  | .ldRR r _ | .ldRHl r | .ldRN r _ | .ldRXd _ r _ | .ldRNPrefixed _ r _ | .incR r | .decR r => [r]
  | .ldABc | .ldADe | .ldADir .. => [.a]
  | .ldDdNn (.pair .bc) _ => [.b, .c]
  | .ldDdNn (.pair .de) _ => [.d, .e]
  | .ldDdNn (.pair .hl) _ => [.h, .l]
  | .ldDdNn .sp _ => []
  | .addR .. | .adcR .. | .subR .. | .sbcR .. | .andR .. | .xorR .. | .orR .. => [.a]
  | .addHl | .adcHl | .subHl | .sbcHl | .andHl | .xorHl | .orHl => [.a]
  | .addN .. | .adcN .. | .subN .. | .sbcN .. | .andN .. | .xorN .. | .orN .. => [.a]
  | .addXd .. | .adcXd .. | .subXd .. | .sbcXd .. | .andXd .. | .xorXd .. | .orXd .. => [.a]
  | .djnz .. => [.b]
  | .cpR .. | .cpHl | .cpN .. | .cpXd .. => []
  | .incHl | .incXd .. | .decHl | .decXd .. => []
  | .ldHlR .. | .ldHlN .. | .ldBcA | .ldDeA | .ldDirA .. | .ldXdR .. | .ldXdN .. | .ldXNn .. | .ldXDir .. => []
  | .nop | .jp .. | .jpCc .. | .jr .. | .jrCc .. | .prefixDD .. | .prefixFD .. => []

/-- The index register an instruction writes (R28, R37). -/
def idxWritten : Instr → Option Idx
  | .ldXNn x _ | .ldXDir x _ => some x
  | .ldRR .. | .ldRHl .. | .ldHlR .. | .ldRN .. | .ldHlN .. | .ldABc | .ldADe | .ldBcA | .ldDeA | .ldADir .. | .ldDirA .. => none
  | .ldDdNn .. => none
  | .ldRXd .. | .ldXdR .. | .ldXdN .. | .ldRNPrefixed .. => none
  | .addR .. | .adcR .. | .subR .. | .sbcR .. | .andR .. | .xorR .. | .orR .. | .cpR .. => none
  | .addHl | .adcHl | .subHl | .sbcHl | .andHl | .xorHl | .orHl | .cpHl => none
  | .addN .. | .adcN .. | .subN .. | .sbcN .. | .andN .. | .xorN .. | .orN .. | .cpN .. => none
  | .addXd .. | .adcXd .. | .subXd .. | .sbcXd .. | .andXd .. | .xorXd .. | .orXd .. | .cpXd .. => none
  | .incR .. | .incHl | .incXd .. | .decR .. | .decHl | .decXd .. => none
  | .nop | .jp .. | .jpCc .. | .jr .. | .jrCc .. | .djnz .. | .prefixDD .. | .prefixFD .. => none

/-- LD SP,nn, the only writer of SP (R29, R37). -/
def writesSp : Instr → Bool
  | .ldDdNn .sp _ => true
  | .ldDdNn (.pair _) _ | .ldXNn .. | .ldXDir .. => false
  | .ldRR .. | .ldRHl .. | .ldHlR .. | .ldRN .. | .ldHlN .. | .ldABc | .ldADe | .ldBcA | .ldDeA | .ldADir .. | .ldDirA .. => false
  | .ldRXd .. | .ldXdR .. | .ldXdN .. | .ldRNPrefixed .. => false
  | .addR .. | .adcR .. | .subR .. | .sbcR .. | .andR .. | .xorR .. | .orR .. | .cpR .. => false
  | .addHl | .adcHl | .subHl | .sbcHl | .andHl | .xorHl | .orHl | .cpHl => false
  | .addN .. | .adcN .. | .subN .. | .sbcN .. | .andN .. | .xorN .. | .orN .. | .cpN .. => false
  | .addXd .. | .adcXd .. | .subXd .. | .sbcXd .. | .andXd .. | .xorXd .. | .orXd .. | .cpXd .. => false
  | .incR .. | .incHl | .incXd .. | .decR .. | .decHl | .decXd .. => false
  | .nop | .jp .. | .jpCc .. | .jr .. | .jrCc .. | .djnz .. | .prefixDD .. | .prefixFD .. => false

/-- The instructions that assign PC beyond moving it past their own bytes (R31, R37). -/
def assignsPc : Instr → Bool
  | .jp .. | .jpCc .. | .jr .. | .jrCc .. | .djnz .. => true
  | .nop | .prefixDD .. | .prefixFD .. | .ldDdNn .. | .ldXNn .. | .ldXDir .. => false
  | .ldRR .. | .ldRHl .. | .ldHlR .. | .ldRN .. | .ldHlN .. | .ldABc | .ldADe | .ldBcA | .ldDeA | .ldADir .. | .ldDirA .. => false
  | .ldRXd .. | .ldXdR .. | .ldXdN .. | .ldRNPrefixed .. => false
  | .addR .. | .adcR .. | .subR .. | .sbcR .. | .andR .. | .xorR .. | .orR .. | .cpR .. => false
  | .addHl | .adcHl | .subHl | .sbcHl | .andHl | .xorHl | .orHl | .cpHl => false
  | .addN .. | .adcN .. | .subN .. | .sbcN .. | .andN .. | .xorN .. | .orN .. | .cpN .. => false
  | .addXd .. | .adcXd .. | .subXd .. | .sbcXd .. | .andXd .. | .xorXd .. | .orXd .. | .cpXd .. => false
  | .incR .. | .incHl | .incXd .. | .decR .. | .decHl | .decXd .. => false

/-- The one byte an instruction stores, as address and value, in the state it runs in; none for an instruction that stores
nothing (R59). -/
def storedByte (s : State) : Instr → Option (Word × Byte)
  | .ldHlR r => some (s.pair .hl, s.reg8 r)
  | .ldHlN n => some (s.pair .hl, n)
  | .ldBcA => some (s.pair .bc, s.a)
  | .ldDeA => some (s.pair .de, s.a)
  | .ldDirA nn => some (nn, s.a)
  | .ldXdR x r d => some (s.idx x + d.signExtend 16, s.reg8 r)
  | .ldXdN x d n => some (s.idx x + d.signExtend 16, n)
  | .incHl => some (s.pair .hl, s.readByte (s.pair .hl) + 1)
  | .decHl => some (s.pair .hl, s.readByte (s.pair .hl) - 1)
  | .incXd x d => some (s.idx x + d.signExtend 16, s.readByte (s.idx x + d.signExtend 16) + 1)
  | .decXd x d => some (s.idx x + d.signExtend 16, s.readByte (s.idx x + d.signExtend 16) - 1)
  | .ldRR .. | .ldRHl .. | .ldRN .. | .ldABc | .ldADe | .ldADir .. | .ldDdNn .. | .ldRXd .. | .ldXNn .. | .ldXDir .. => none
  | .ldRNPrefixed .. | .incR .. | .decR .. => none
  | .addR .. | .adcR .. | .subR .. | .sbcR .. | .andR .. | .xorR .. | .orR .. | .cpR .. => none
  | .addHl | .adcHl | .subHl | .sbcHl | .andHl | .xorHl | .orHl | .cpHl => none
  | .addN .. | .adcN .. | .subN .. | .sbcN .. | .andN .. | .xorN .. | .orN .. | .cpN .. => none
  | .addXd .. | .adcXd .. | .subXd .. | .sbcXd .. | .andXd .. | .xorXd .. | .orXd .. | .cpXd .. => none
  | .nop | .jp .. | .jpCc .. | .jr .. | .jrCc .. | .djnz .. | .prefixDD .. | .prefixFD .. => none

/-! ### Unknown opcodes (R80, R86) -/

/-- The 69 unknown primary opcodes, as R86 lists them. -/
def unknownPrimaryBytes : List Byte :=
  [0x03, 0x07, 0x08, 0x09, 0x0B, 0x0F, 0x13, 0x17, 0x19, 0x1B, 0x1F, 0x22, 0x23, 0x27, 0x29, 0x2A, 0x2B, 0x2F, 0x33, 0x37,
   0x39, 0x3B, 0x3F, 0x76] ++
  [0xC0, 0xC1, 0xC4, 0xC5, 0xC7, 0xC8, 0xC9, 0xCB, 0xCC, 0xCD, 0xCF, 0xD0, 0xD1, 0xD3, 0xD4, 0xD5, 0xD7, 0xD8, 0xD9, 0xDB,
   0xDC, 0xDF, 0xE0, 0xE1] ++
  [0xE3, 0xE4, 0xE5, 0xE7, 0xE8, 0xE9, 0xEB, 0xEC, 0xED, 0xEF, 0xF0, 0xF1, 0xF3, 0xF4, 0xF5, 0xF7, 0xF8, 0xF9, 0xFB, 0xFC,
   0xFF]

/-- The event a step reports when `b0` and `b1` are the first two bytes at PC (R86, R87, R221): none for a known opcode. -/
def unknownEvent (b0 b1 : Byte) : Option DiagEvent :=
  if unknownPrimaryBytes.contains b0 then some ⟨.primary, b0⟩
  else if b0 = 0xDD && !knownSecondBytes.contains b1 then some ⟨.dd, b1⟩
  else if b0 = 0xFD && !knownSecondBytes.contains b1 then some ⟨.fd, b1⟩
  else none

/-! ### Bytes at PC -/

/-- The bytes of `bytes` stand in memory from PC on, addresses mod 2^16 (R53, R70). -/
abbrev State.holdsAtPc (s : State) (bytes : List Byte) : Prop :=
  ∀ k, k < bytes.length → s.readByte (s.pc + BitVec.ofNat 16 k) = bytes.getD k 0

/-! ### The four operand forms of a two-operand ALU mnemonic (R180) -/

/-- In each operand form (r, (HL), n, (X+d)) the instruction has R180's encoding with the given `alu` field and takes the state to
`go` of the operand's value. -/
def AluForms (aluField : BitVec 3) (onReg : Reg8 → Instr) (onHl : Instr) (onImm : Byte → Instr) (onIdx : Idx → Byte → Instr)
    (go : State → Byte → State) : Prop :=
  ∀ (s : State) (r : Reg8) (n d : Byte) (x : Idx),
    (encode (onReg r) = [opByte 0b10 aluField r.code] ∧ exec (onReg r) s = .next (go s (s.reg8 r))) ∧
    (encode onHl = [opByte 0b10 aluField 0b110] ∧ exec onHl s = .next (go s (s.readByte (s.pair .hl)))) ∧
    (encode (onImm n) = [opByte 0b11 aluField 0b110, n] ∧ exec (onImm n) s = .next (go s n)) ∧
    (encode (onIdx x d) = [x.escape, opByte 0b10 aluField 0b110, d] ∧
      exec (onIdx x d) s = .next (go s (s.readByte (s.idx x + d.signExtend 16))))

/-- In each operand form (r, (HL), (X+d)) of INC or DEC the instruction has its encoding and replaces its operand's value `v` by
`(out v).1` and F by `(out v).2`, and changes nothing else (R189, R190). -/
def IncDecForms (opField : BitVec 3) (onReg : Reg8 → Instr) (onHl : Instr) (onIdx : Idx → Byte → Instr)
    (out : Byte → Byte × Byte) : Prop :=
  ∀ (s : State) (r : Reg8) (d : Byte) (x : Idx),
    (encode (onReg r) = [opByte 0 r.code opField] ∧
      ∃ t, exec (onReg r) s = .next t ∧ t.f = (out (s.reg8 r)).2 ∧
        LoadsReg8 r (out (s.reg8 r)).1 s (t.setF s.f)) ∧
    (encode onHl = [opByte 0 0b110 opField] ∧
      ∃ t, exec onHl s = .next t ∧ t.f = (out (s.readByte (s.pair .hl))).2 ∧
        StoresOnly (s.pair .hl) (out (s.readByte (s.pair .hl))).1 s (t.setF s.f)) ∧
    (encode (onIdx x d) = [x.escape, opByte 0 0b110 opField, d] ∧
      ∃ t, exec (onIdx x d) s = .next t ∧ t.f = (out (s.readByte (s.idx x + d.signExtend 16))).2 ∧
        StoresOnly (s.idx x + d.signExtend 16) (out (s.readByte (s.idx x + d.signExtend 16))).1 s (t.setF s.f))

end Sys2Proof.Machine
end

