-- ==== Sys2Proof/Certificates/Slice0/Obligations.lean ====
section
/-! DEFINITION. The statements for the provers. Each is a rule of the spec, or rests on the sections its docstring names. PC is
already past the instruction's bytes when `exec` runs (R31); `StepRunsDecodedInstruction` and `StepRunsEncodedBytes` join the two.
The byte values of opcodes and fields are the spec's own decisions D11 and D14 throughout (log entry 5); a docstring names any other
decision or inference of the spec that its statement rests on. -/

open Sys2Proof Sys2Proof.Machine

/-! ### Encoding and decoding -/

/-- Every operand of every well-formed instruction survives encoding and decoding, whatever bytes follow (R70 to R85, R94). -/
def Obligations.EncodeThenDecode : Prop :=
  ∀ (i : Instr) (rest : List Byte), i.wf = true → decode (encode i ++ rest) = .instr i

/-- A decoded instruction is well formed, and its encoding is the bytes it consumes (R76, R81, R94). -/
def Obligations.DecodeThenEncode : Prop :=
  ∀ (b0 b1 b2 b3 : Byte) (i : Instr), decodeFour b0 b1 b2 b3 = .instr i →
    i.wf = true ∧ encode i = [b0, b1, b2, b3].take i.length

/-- The unknown primary opcodes are the 69 bytes R86 lists, and after an escape byte the unknown second bytes are all but the 32
of R80, so an escape byte after an escape byte and DD 00, FD 00 are unknown (R86, R87, R88). Which bytes are unknown is the spec's
decision D12, D14 and D21. -/
def Obligations.UnknownOpcodesAreTheListedBytes : Prop :=
  (∀ b0 b1 b2 b3 o : Byte, decodeFour b0 b1 b2 b3 = .unknown o ↔ b0 = o ∧ o ∈ unknownPrimaryBytes) ∧
  (∀ (x : Idx) (o b2 b3 : Byte), decodeFour x.escape o b2 b3 = .instr (x.unknownInstr o) ↔ o ∉ knownSecondBytes) ∧
  (∀ x y : Idx, y.escape ∉ knownSecondBytes ∧ (0x00 : Byte) ∉ knownSecondBytes ∧ x.escape ∉ unknownPrimaryBytes)

/-- Some words of the spec's tables decode to the instruction they stand for (R94; the words are those of 95_test_vectors.md). -/
def Obligations.SpecWordsDecode : Prop :=
  decode [0x3C] = .instr (.incR .a) ∧
  decode [0x78] = .instr (.ldRR .a .b) ∧
  decode [0x3A, 0x12, 0x34] = .instr (.ldADir 0x1234) ∧
  decode [0x21, 0x20, 0x00] = .instr (.ldDdNn (.pair .hl) 0x2000) ∧
  decode [0xC6, 0x03] = .instr (.addN 0x03) ∧
  decode [0xCA, 0x12, 0x34] = .instr (.jpCc .z 0x1234) ∧
  decode [0x10, 0xFD] = .instr (.djnz 0xFD) ∧
  decode [0xDD, 0x36, 0x05, 0x06] = .instr (.ldXdN .ix 0x05 0x06) ∧
  decode [0xFD, 0xBE, 0x00] = .instr (.cpXd .iy 0x00) ∧
  decode [0xF4] = .unknown 0xF4

/-- The fields of an opcode byte (R71) and the field tables (R72, R73, R75), and the escape bytes (R79). -/
def Obligations.OpcodeFieldsAndTables : Prop :=
  (∀ o : Byte, (fieldX o).toNat = o.toNat / 64 ∧ (fieldY o).toNat = o.toNat / 8 % 8 ∧ (fieldZ o).toNat = o.toNat % 8 ∧
    (fieldP o).toNat = o.toNat / 16 % 4 ∧ (fieldQ o).toNat = o.toNat / 8 % 2 ∧ opByte (fieldX o) (fieldY o) (fieldZ o) = o) ∧
  [0, 1, 2, 3, 4, 5, 6, 7].map Reg8.ofCode = [some .b, some .c, some .d, some .e, some .h, some .l, none, some .a] ∧
  [0, 1, 2, 3].map Dest16.ofCode = [.pair .bc, .pair .de, .pair .hl, .sp] ∧
  [0, 1, 2, 3, 4, 5, 6, 7].map AluOp.ofCode = [.add, .adc, .sub, .sbc, .and, .xor, .or, .cp] ∧
  (∀ r : Reg8, Reg8.ofCode r.code = some r) ∧ (∀ dd : Dest16, Dest16.ofCode dd.code = dd) ∧
  (∀ op : AluOp, AluOp.ofCode op.code = op) ∧
  Idx.escape .ix = 0xDD ∧ Idx.escape .iy = 0xFD

/-! ### The step -/

/-- When the bytes at PC decode to an instruction, the step is that instruction run with PC past its bytes (R31, R77, R81). -/
def Obligations.StepRunsDecodedInstruction : Prop :=
  ∀ (s : State) (i : Instr), decode s.fetchWindow = .instr i →
    step s = exec i { s with pc := s.pc + BitVec.ofNat 16 i.length }

/-- When a well-formed instruction's encoding stands in memory at PC, addresses wrapping at 0xFFFF, the step runs that instruction
with PC past it (R30, R31, R53, R77). -/
def Obligations.StepRunsEncodedBytes : Prop :=
  ∀ (s : State) (i : Instr), i.wf = true → s.holdsAtPc (encode i) →
    step s = exec i { s with pc := s.pc + BitVec.ofNat 16 (encode i).length }

/-- The step is R77's decode state machine, which fetches byte by byte. -/
def Obligations.StepIsFetchStateMachine : Prop :=
  ∀ s : State, step s = stepByFetch s

/-- R220: a step always completes, in every state, an unknown opcode is absorbed and logged as one event, and a run stops at
nothing but the halt sentinel. -/
def Obligations.StepAlwaysCompletes : Prop :=
  (∀ s : State, ∃ t, step s = .next t ∧
    ∀ ev, unknownEvent (s.readByte s.pc) (s.readByte (s.pc + 1)) = some ev → t.events = s.events ++ [ev]) ∧
  (∀ (fuel : Nat) (s : State), match runUntilHalt fuel s with
    | .halted t _ => t.readByte t.pc = 0x00
    | .noEnd t _ => core.run fuel s = .next t
    | .refused _ _ => False)

/-- R221, R225: a step emits the one event of an unknown opcode, and no event in any other step. The event's table field, its codes
and the byte it carries are the spec's decision D20, and that one event is the most is its inference in R225. Whatever
the sink, it receives just that event, and the step's outcome does not depend on it (R223, D20; log entry 16). -/
def Obligations.StepEmitsEventExactlyOnUnknownOpcode : Prop :=
  (TableId.code .primary = 0 ∧ TableId.code .dd = 1 ∧ TableId.code .fd = 2) ∧
  (∀ (κ : Type) (diagSink : DiagSink DiagEvent κ) (k : κ) (s : State), stepInto diagSink k s =
    (step s, match unknownEvent (s.readByte s.pc) (s.readByte (s.pc + 1)) with
      | some ev => diagSink k ev
      | none => k)) ∧
  ∀ s : State, ∃ t, step s = .next t ∧
    t.events = s.events ++ (unknownEvent (s.readByte s.pc) (s.readByte (s.pc + 1))).toList ∧
    stepEvent s = unknownEvent (s.readByte s.pc) (s.readByte (s.pc + 1))

/-- R222: an unknown opcode moves PC by 1 (primary) or 2 (after an escape byte), emits its event and changes nothing else. That
the model's two escape-byte constructors complete so, for every second byte, is its own choice of what those rows of the table stand
for (log entry 3, DESIGN CHOICE; R79 says that a prefix byte is not an instruction by itself). -/
def Obligations.UnknownOpcodeChangesOnlyPc : Prop :=
  (∀ (s : State) (ev : DiagEvent), unknownEvent (s.readByte s.pc) (s.readByte (s.pc + 1)) = some ev →
    step s = .next { s with
      pc := s.pc + (if ev.table = .primary then 1 else 2)
      events := s.events ++ [ev] }) ∧
  (∀ (s : State) (o : Byte),
    exec (.prefixDD o) s = .next { s with events := s.events ++ [⟨.dd, o⟩] } ∧
    exec (.prefixFD o) s = .next { s with events := s.events ++ [⟨.fd, o⟩] })

/-- D28, in R86: under the parameter value UNKNOWN_POLICY = REFUSE the report is a refusal; the model's value is the spec's, DIAG
(log entry 7). -/
def Obligations.RefusePolicyRefusesUnknownOpcodes : Prop :=
  Config.unknownPolicy = .diag ∧
  ∀ (s : State) (table : TableId) (o : Byte), reportUnknown .refuse table o s = .refused (.unknownOpcode table o)

/-- The invariant holds at reset. -/
def Obligations.ResetSatisfiesInv : Prop := State.reset.Inv

/-- Every step keeps the invariant: memory in canonical form, `F[5] = F[3] = 0` (R32), and the shadow bank, I and R at 0 (R26,
R27). -/
def Obligations.StepKeepsInv : Prop :=
  ∀ s t : State, s.Inv → step s = .next t → t.Inv

/-- The table of R37, which the spec marks as its own inference: a register is written only by the instructions of its row. -/
def Obligations.RegistersWrittenOnlyByTheirWriters : Prop :=
  ∀ (i : Instr) (s t : State), exec i s = .next t →
    KeepsReg8Except (reg8Written i) s t ∧
    (writesF i = false → t.f = s.f) ∧
    (∀ x : Idx, idxWritten i ≠ some x → t.idx x = s.idx x) ∧
    (writesSp i = false → t.sp = s.sp) ∧
    (assignsPc i = false → t.pc = s.pc) ∧
    KeepsInert s t

/-- R145: a step that runs none of the ten flag-producing mnemonics, an unknown opcode included, leaves F as it was (the spec's inference in R145). -/
def Obligations.OtherStepsKeepF : Prop :=
  ∀ s t : State, step s = .next t → (∀ i, decode s.fetchWindow = .instr i → writesF i = false) → t.f = s.f

/-- R139: a flag-producing instruction clears bits 5 and 3, and no flag of the old F survives: with any other F the instruction gives
the same F, but that ADC and SBC need the same C, their carry-in. -/
def Obligations.FlagsAreFullyRecomputed : Prop :=
  ∀ (i : Instr) (s : State) (g : Byte), writesF i = true → (readsCarry i = true → flagC g = flagC s.f) →
    ∃ t u, exec i s = .next t ∧ exec i { s with f := g } = .next u ∧
      t.f.getLsbD 5 = false ∧ t.f.getLsbD 3 = false ∧ u.f = t.f

/-! ### Memory and pairs -/

/-- Memory's frame, for every instruction: the one byte it stores (the table of R59, the spec's own inference), and every other byte
as before. -/
def Obligations.InstructionStoresOnlyItsByte : Prop :=
  ∀ (i : Instr) (s t : State), exec i s = .next t →
    match storedByte s i with
    | some (addr, v) => StoresByte addr v s t
    | none => KeepsMemory s t

/-- R65, R250: what a step stores is what the next step fetches at those addresses, while the step itself ran the instruction
that stood there before (the spec's inference in R65 from R52 and R63, and its decision D22). -/
def Obligations.StoreIsSeenByNextFetch : Prop :=
  ∀ (s t : State) (i : Instr) (addr : Word) (v : Byte), decode s.fetchWindow = .instr i →
    storedByte (s.advance i.length) i = some (addr, v) → step s = .next t →
      t.fetchWindow = [0, 1, 2, 3].map fun k => if t.pc + k = addr then v else s.readByte (t.pc + k)

/-- Two memories in the model's canonical form (log entry 8) that read alike at every address are the same data. -/
def Obligations.EqualReadsMeanEqualMemory : Prop :=
  ∀ m m' : Memory, Memory.wf m → Memory.wf m' → (∀ a : Word, m.read a = m'.read a) → m = m'

/-- R23: a pair reads as `(high << 8) | low`; that B, D and H are the high halves is the spec's decision D2. -/
def Obligations.PairsComposeByOr : Prop :=
  ∀ s : State,
    s.pair .bc = (s.b.zeroExtend 16 <<< 8) ||| s.c.zeroExtend 16 ∧
    s.pair .de = (s.d.zeroExtend 16 <<< 8) ||| s.e.zeroExtend 16 ∧
    s.pair .hl = (s.h.zeroExtend 16 <<< 8) ||| s.l.zeroExtend 16

/-! ### Loads -/

/-- R150: LD r,r'. A self-load changes nothing. -/
def Obligations.LdRegReg : Prop :=
  ∀ (s : State) (dst src : Reg8),
    encode (.ldRR dst src) = [opByte 0b01 dst.code src.code] ∧
    (∃ t, exec (.ldRR dst src) s = .next t ∧ LoadsReg8 dst (s.reg8 src) s t) ∧
    exec (.ldRR dst dst) s = .next s

/-- R151: LD r,(HL), through the old HL. -/
def Obligations.LdRegFromHl : Prop :=
  ∀ (s : State) (r : Reg8),
    encode (.ldRHl r) = [opByte 0b01 r.code 0b110] ∧
    ∃ t, exec (.ldRHl r) s = .next t ∧ LoadsReg8 r (s.readByte (s.pair .hl)) s t

/-- R152: LD (HL),r. -/
def Obligations.LdHlFromReg : Prop :=
  ∀ (s : State) (r : Reg8),
    encode (.ldHlR r) = [opByte 0b01 0b110 r.code] ∧
    ∃ t, exec (.ldHlR r) s = .next t ∧ StoresOnly (s.pair .hl) (s.reg8 r) s t

/-- R153: LD r,n. -/
def Obligations.LdRegImm : Prop :=
  ∀ (s : State) (r : Reg8) (n : Byte),
    encode (.ldRN r n) = [opByte 0b00 r.code 0b110, n] ∧
    ∃ t, exec (.ldRN r n) s = .next t ∧ LoadsReg8 r n s t

/-- R154: LD (HL),n. -/
def Obligations.LdHlImm : Prop :=
  ∀ (s : State) (n : Byte),
    encode (.ldHlN n) = [0x36, n] ∧
    ∃ t, exec (.ldHlN n) s = .next t ∧ StoresOnly (s.pair .hl) n s t

/-- R155, R156: LD A,(BC) and LD A,(DE). -/
def Obligations.LdAccFromBcDe : Prop :=
  ∀ s : State,
    (encode .ldABc = [0x0A] ∧ ∃ t, exec .ldABc s = .next t ∧ LoadsReg8 .a (s.readByte (s.pair .bc)) s t) ∧
    (encode .ldADe = [0x1A] ∧ ∃ t, exec .ldADe s = .next t ∧ LoadsReg8 .a (s.readByte (s.pair .de)) s t)

/-- R157, R158: LD (BC),A and LD (DE),A. -/
def Obligations.LdBcDeFromAcc : Prop :=
  ∀ s : State,
    (encode .ldBcA = [0x02] ∧ ∃ t, exec .ldBcA s = .next t ∧ StoresOnly (s.pair .bc) s.a s t) ∧
    (encode .ldDeA = [0x12] ∧ ∃ t, exec .ldDeA s = .next t ∧ StoresOnly (s.pair .de) s.a s t)

/-- R159, R160: LD A,(nn) and LD (nn),A, with nn big-endian in the instruction. -/
def Obligations.LdAccDirect : Prop :=
  ∀ (s : State) (nn : Word),
    (encode (.ldADir nn) = [0x3A, hiByte nn, loByte nn] ∧
      ∃ t, exec (.ldADir nn) s = .next t ∧ LoadsReg8 .a (s.readByte nn) s t) ∧
    (encode (.ldDirA nn) = [0x32, hiByte nn, loByte nn] ∧
      ∃ t, exec (.ldDirA nn) s = .next t ∧ StoresOnly nn s.a s t)

/-- R161: LD dd,nn writes the two halves of a pair, or SP, and nothing else; the pair reads back nn. -/
def Obligations.LdPairImm : Prop :=
  ∀ (s : State) (nn : Word),
    (encode (.ldDdNn (.pair .bc) nn) = [0x01, hiByte nn, loByte nn] ∧
      exec (.ldDdNn (.pair .bc) nn) s = .next { s with b := hiByte nn, c := loByte nn }) ∧
    (encode (.ldDdNn (.pair .de) nn) = [0x11, hiByte nn, loByte nn] ∧
      exec (.ldDdNn (.pair .de) nn) s = .next { s with d := hiByte nn, e := loByte nn }) ∧
    (encode (.ldDdNn (.pair .hl) nn) = [0x21, hiByte nn, loByte nn] ∧
      exec (.ldDdNn (.pair .hl) nn) s = .next { s with h := hiByte nn, l := loByte nn }) ∧
    (encode (.ldDdNn .sp nn) = [0x31, hiByte nn, loByte nn] ∧ exec (.ldDdNn .sp nn) s = .next { s with sp := nn }) ∧
    (∀ (p : Pair) (t : State), exec (.ldDdNn (.pair p) nn) s = .next t → t.pair p = nn)

/-- R162: LD r,(X+d), at X plus the signed displacement mod 2^16. -/
def Obligations.LdRegFromIndexed : Prop :=
  ∀ (s : State) (x : Idx) (r : Reg8) (d : Byte),
    encode (.ldRXd x r d) = [x.escape, opByte 0b01 r.code 0b110, d] ∧
    ∃ t, exec (.ldRXd x r d) s = .next t ∧ LoadsReg8 r (s.readByte (s.idx x + d.signExtend 16)) s t

/-- R163: LD (X+d),r. -/
def Obligations.LdIndexedFromReg : Prop :=
  ∀ (s : State) (x : Idx) (r : Reg8) (d : Byte),
    encode (.ldXdR x r d) = [x.escape, opByte 0b01 0b110 r.code, d] ∧
    ∃ t, exec (.ldXdR x r d) s = .next t ∧ StoresOnly (s.idx x + d.signExtend 16) (s.reg8 r) s t

/-- R164: LD (X+d),n; that the displacement comes before the immediate is the spec's decision D15. -/
def Obligations.LdIndexedImm : Prop :=
  ∀ (s : State) (x : Idx) (d n : Byte),
    encode (.ldXdN x d n) = [x.escape, 0x36, d, n] ∧
    ∃ t, exec (.ldXdN x d n) s = .next t ∧ StoresOnly (s.idx x + d.signExtend 16) n s t

/-- R165: LD X,nn. -/
def Obligations.LdIdxImm : Prop :=
  ∀ (s : State) (nn : Word),
    (encode (.ldXNn .ix nn) = [0xDD, 0x21, hiByte nn, loByte nn] ∧ exec (.ldXNn .ix nn) s = .next { s with ix := nn }) ∧
    (encode (.ldXNn .iy nn) = [0xFD, 0x21, hiByte nn, loByte nn] ∧ exec (.ldXNn .iy nn) s = .next { s with iy := nn })

/-- R166, R57: LD X,(nn) takes the high byte from nn and the low byte from nn + 1 mod 2^16 (the spec's decision D16, log entry 6);
with WIDE_DATA_ORDER = LITTLE the two would change places. -/
def Obligations.LdIdxDirect : Prop :=
  ∀ (s : State) (nn : Word),
    (encode (.ldXDir .ix nn) = [0xDD, 0x2A, hiByte nn, loByte nn] ∧
      exec (.ldXDir .ix nn) s = .next { s with ix := joinBytes (s.readByte nn) (s.readByte (nn + 1)) }) ∧
    (encode (.ldXDir .iy nn) = [0xFD, 0x2A, hiByte nn, loByte nn] ∧
      exec (.ldXDir .iy nn) s = .next { s with iy := joinBytes (s.readByte nn) (s.readByte (nn + 1)) }) ∧
    s.readWide .little nn = joinBytes (s.readByte (nn + 1)) (s.readByte nn)

/-- R167: LD r,n after an escape byte loads B, C, D, E or A and neither reads nor writes X; that second bytes 0x26 and 0x2E are
unknown is the spec's decision D14. -/
def Obligations.LdRegImmEscaped : Prop :=
  ∀ (s : State) (x : Idx) (r : Reg8) (n : Byte),
    encode (.ldRNPrefixed x r n) = [x.escape, opByte 0b00 r.code 0b110, n] ∧
    (∃ t, exec (.ldRNPrefixed x r n) s = .next t ∧ LoadsReg8 r n s t) ∧
    ((Instr.ldRNPrefixed x r n).wf = true ↔ r ∈ [Reg8.b, .c, .d, .e, .a]) ∧
    decode [x.escape, 0x26, n] = .instr (x.unknownInstr 0x26) ∧ decode [x.escape, 0x2E, n] = .instr (x.unknownInstr 0x2E)

/-! ### The flag unit -/

/-- R132, R133, R134, R137, R138: the arithmetic derivation from R131's raw result, read through the flags of R32. -/
def Obligations.ArithmeticDerivation : Prop :=
  ∀ (a b : Byte) (cin sub : Bool),
    let raw : Int := if sub then (a.toNat : Int) - b.toNat - cin.toNat else (a.toNat : Int) + b.toNat + cin.toNat
    let res := (arith a b cin sub).1
    let f := (arith a b cin sub).2
    (res.toNat : Int) = raw % 256 ∧
    (flagC f = true ↔ if sub then raw < 0 else raw > 0xFF) ∧
    flagN f = sub ∧
    (flagZ f = true ↔ res = 0) ∧
    flagS f = res.getLsbD 7 ∧
    f.getLsbD 5 = false ∧ f.getLsbD 3 = false

/-- R136: PV is the overflow formula (the spec's decision D6), and the formula says that the signed result lies outside -128..127
(its inference). -/
def Obligations.OverflowIsSignedRange : Prop :=
  ∀ (a b : Byte) (cin sub : Bool),
    let res := (arith a b cin sub).1
    let signed : Int := if sub then a.toInt - b.toInt - cin.toNat else a.toInt + b.toInt + cin.toNat
    (flagPV (arith a b cin sub).2 = true ↔
      (if sub then a.getLsbD 7 ≠ b.getLsbD 7 else a.getLsbD 7 = b.getLsbD 7) ∧ res.getLsbD 7 ≠ a.getLsbD 7) ∧
    (flagPV (arith a b cin sub).2 = true ↔ signed < -128 ∨ 127 < signed)

/-- R135: H is the carry out of, or the borrow into, bit 3, and equals bit 4 of `a ^ b ^ raw'` with raw' the raw result mod 2^9
(the spec's decision D6). -/
def Obligations.HalfCarryIsBitFour : Prop :=
  ∀ (a b : Byte) (cin sub : Bool),
    let raw' : Nat := (rawResult a b cin sub % 512).toNat
    (flagH (arith a b cin sub).2 = true ↔
      if sub then ((a.toNat % 16 : Nat) : Int) - (b.toNat % 16 : Nat) - cin.toNat < 0
      else a.toNat % 16 + b.toNat % 16 + cin.toNat > 0xF) ∧
    flagH (arith a b cin sub).2 = (a.toNat ^^^ b.toNat ^^^ raw').testBit 4

/-- R140, R141, R142: the logical derivation; that it clears N is the spec's decision D7. -/
def Obligations.LogicalDerivation : Prop :=
  ∀ res : Byte,
    let f := (logic res).2
    (logic res).1 = res ∧
    (flagPV f = true ↔ ((res.getLsbD 0).toNat + (res.getLsbD 1).toNat + (res.getLsbD 2).toNat + (res.getLsbD 3).toNat +
      (res.getLsbD 4).toNat + (res.getLsbD 5).toNat + (res.getLsbD 6).toNat + (res.getLsbD 7).toNat) % 2 = 0) ∧
    (flagZ f = true ↔ res = 0) ∧ flagS f = res.getLsbD 7 ∧ flagC f = false ∧ flagH f = false ∧ flagN f = false

/-- R143, R32: the F byte and the place of each flag in it, which is the spec's decision D5. -/
def Obligations.FlagsByteLayout : Prop :=
  (∀ s z h pv n c : Bool, (packFlags s z h pv n c).toNat =
    128 * s.toNat + 64 * z.toNat + 16 * h.toNat + 4 * pv.toNat + 2 * n.toNat + c.toNat) ∧
  (∀ f : Byte, flagS f = f.toNat.testBit 7 ∧ flagZ f = f.toNat.testBit 6 ∧ flagH f = f.toNat.testBit 4 ∧
    flagPV f = f.toNat.testBit 2 ∧ flagN f = f.toNat.testBit 1 ∧ flagC f = f.toNat.testBit 0)

/-! ### Arithmetic and logic -/

/-- R181: ADD A,s writes A and F only, in all four operand forms. -/
def Obligations.AddForms : Prop :=
  AluForms 0b000 .addR .addHl .addN .addXd fun s v =>
    { s with a := (arith s.a v false false).1, f := (arith s.a v false false).2 }

/-- R182: ADC A,s, with F.C as the carry-in. -/
def Obligations.AdcForms : Prop :=
  AluForms 0b001 .adcR .adcHl .adcN .adcXd fun s v =>
    { s with a := (arith s.a v (flagC s.f) false).1, f := (arith s.a v (flagC s.f) false).2 }

/-- R183: SUB s. -/
def Obligations.SubForms : Prop :=
  AluForms 0b010 .subR .subHl .subN .subXd fun s v =>
    { s with a := (arith s.a v false true).1, f := (arith s.a v false true).2 }

/-- R184: SBC A,s, with F.C as the borrow-in. -/
def Obligations.SbcForms : Prop :=
  AluForms 0b011 .sbcR .sbcHl .sbcN .sbcXd fun s v =>
    { s with a := (arith s.a v (flagC s.f) true).1, f := (arith s.a v (flagC s.f) true).2 }

/-- R188: CP s writes F only, as SUB would. -/
def Obligations.CpForms : Prop :=
  AluForms 0b111 .cpR .cpHl .cpN .cpXd fun s v => { s with f := (arith s.a v false true).2 }

/-- R185, R186, R187: AND, XOR and OR. -/
def Obligations.LogicForms : Prop :=
  AluForms 0b100 .andR .andHl .andN .andXd (fun s v => { s with a := s.a &&& v, f := (logic (s.a &&& v)).2 }) ∧
  AluForms 0b101 .xorR .xorHl .xorN .xorXd (fun s v => { s with a := s.a ^^^ v, f := (logic (s.a ^^^ v)).2 }) ∧
  AluForms 0b110 .orR .orHl .orN .orXd (fun s v => { s with a := s.a ||| v, f := (logic (s.a ||| v)).2 })

/-- R189: INC m, in its three operand forms; the memory forms read and write one address. C is 1 only for the operand 0xFF
(the spec's decision D8: C is recomputed). -/
def Obligations.IncForms : Prop :=
  IncDecForms 0b100 .incR .incHl .incXd (fun v => arith v 1 false false) ∧
  ∀ v : Byte, (arith v 1 false false).1 = v + 1 ∧ (flagC (arith v 1 false false).2 = true ↔ v = 0xFF)

/-- R190: DEC m. C is 1 only for the operand 0x00 (D8). -/
def Obligations.DecForms : Prop :=
  IncDecForms 0b101 .decR .decHl .decXd (fun v => arith v 1 false true) ∧
  ∀ v : Byte, (arith v 1 false true).1 = v - 1 ∧ (flagC (arith v 1 false true).2 = true ↔ v = 0x00)

/-- R148, which the spec marks as inferred: the identities of A with itself, whatever A and the rest of the state. -/
def Obligations.SelfOperandIdentities : Prop :=
  ∀ s : State,
    exec (.subR .a) s = .next { s with a := 0, f := 0x42 } ∧
    exec (.cpR .a) s = .next { s with f := 0x42 } ∧
    exec (.xorR .a) s = .next { s with a := 0, f := 0x44 } ∧
    (s.a = 0x80 → exec (.addR .a) s = .next { s with a := 0, f := 0x45 }) ∧
    (flagC s.f = true → exec (.sbcR .a) s = .next { s with a := 0xFF, f := 0x93 })

/-! ### Control transfer -/

/-- R74, R206: what each condition tests, by the bit of F (R32), and its field value (the spec's decision D19). -/
def Obligations.ConditionsReadTheirFlag : Prop :=
  (∀ f : Byte,
    condHolds .nz f = !f.getLsbD 6 ∧ condHolds .z f = f.getLsbD 6 ∧ condHolds .nc f = !f.getLsbD 0 ∧
    condHolds .c f = f.getLsbD 0 ∧ condHolds .po f = !f.getLsbD 2 ∧ condHolds .pe f = f.getLsbD 2 ∧
    condHolds .p f = !f.getLsbD 7 ∧ condHolds .m f = f.getLsbD 7) ∧
  [0, 1, 2, 3, 4, 5, 6, 7].map Cond.ofCode = [.nz, .z, .nc, .c, .po, .pe, .p, .m] ∧
  (∀ cc : Cond, Cond.ofCode cc.code = cc) ∧
  (∀ (cc : Cond) (e : Byte), (Instr.jrCc cc e).wf = true ↔ cc ∈ [Cond.nz, .z, .nc, .c])

/-- R200: NOP changes nothing but the PC its fetch moves. -/
def Obligations.NopOnlyMovesPc : Prop :=
  encode .nop = [0x00] ∧ (∀ s : State, exec .nop s = .next s) ∧
  (∀ s : State, s.readByte s.pc = 0x00 → step s = .next { s with pc := s.pc + 1 })

/-- R201, R202: JP nn and JP cc,nn; the address is part of the instruction whether or not the jump is taken. -/
def Obligations.AbsoluteJumps : Prop :=
  ∀ (s : State) (cc : Cond) (nn : Word),
    (encode (.jp nn) = [0xC3, hiByte nn, loByte nn] ∧ exec (.jp nn) s = .next { s with pc := nn }) ∧
    (encode (.jpCc cc nn) = [opByte 0b11 cc.code 0b010, hiByte nn, loByte nn] ∧
      exec (.jpCc cc nn) s = .next { s with pc := if condHolds cc s.f then nn else s.pc })

/-- R203, R204: JR e and JR cc,e, relative to the byte after e, mod 2^16. -/
def Obligations.RelativeJumps : Prop :=
  ∀ (s : State) (cc : Cond) (e : Byte),
    (encode (.jr e) = [0x18, e] ∧ exec (.jr e) s = .next { s with pc := s.pc + e.signExtend 16 }) ∧
    (encode (.jrCc cc e) = [opByte 0b00 (0b100 + cc.code) 0b000, e] ∧
      exec (.jrCc cc e) s = .next { s with pc := if condHolds cc s.f then s.pc + e.signExtend 16 else s.pc }) ∧
    (s.holdsAtPc [0x18, 0xFE] → step s = .next s)

/-- R205: DJNZ e decrements B mod 2^8, writes no flag, and branches exactly when the new B is not 0. That
the register is B and that no flag changes is the spec's decision D18. -/
def Obligations.DecrementAndBranch : Prop :=
  ∀ (s : State) (e : Byte),
    encode (.djnz e) = [0x10, e] ∧
    exec (.djnz e) s = .next { s with
      b := s.b - 1
      pc := if s.b = 1 then s.pc else s.pc + e.signExtend 16 }

/-! ### Reset and the host interface -/

/-- The `reset` input repeats construction, whatever the state was (the spec's decision D31, in R240), and the
model's record of events, which is its own (log entry 4, DESIGN CHOICE), is then empty (vector R0 of 95_test_vectors.md). -/
def Obligations.ResetInputRepeatsConstruction : Prop :=
  (∀ s : State, s.applyReset = State.reset) ∧ State.reset.events = []

/-- R36: at reset every register and every byte of memory is 0. -/
def Obligations.ResetValues : Prop :=
  (∀ r : Reg8, State.reset.reg8 r = 0) ∧ State.reset.f = 0 ∧ State.reset.InertZero ∧
  State.reset.ix = 0 ∧ State.reset.iy = 0 ∧ State.reset.sp = 0 ∧ State.reset.pc = 0 ∧
  ∀ a : Word, State.reset.readByte a = 0

/-- R242: an image of at most 65536 bytes is written from address 0 and nothing else changes; a longer one is refused. That the host
loads after reset and before the first step is the spec's decision D24; the model's load takes any state (log entry 11). -/
def Obligations.ImageLoadWritesFromZero : Prop :=
  ∀ (img : List Byte) (s : State),
    (img.length ≤ 65536 → ∃ t, s.load img = .next t ∧ t = { s with mem := t.mem } ∧
      ∀ a : Word, t.readByte a = if a.toNat < img.length then img.getD a.toNat 0 else s.readByte a) ∧
    (65536 < img.length → s.load img = .refused .imageTooLong)

/-- R247, R248: under any fuel `runUntilHalt` either halts at the first state whose byte at PC is the sentinel, with PC still on it,
or reports no end after all its steps; it never stops otherwise. With the end state it gives the events emitted during the run: those
the state's record (log entry 4) gained, each once and in order. -/
def Obligations.RunStopsAtFirstSentinel : Prop :=
  ∀ (fuel : Nat) (s : State),
    (∃ (n : Nat) (t : State) (evs : List DiagEvent), n ≤ fuel ∧ runUntilHalt fuel s = .halted t evs ∧ core.run n s = .next t ∧
      t.readByte t.pc = 0x00 ∧ t.events = s.events ++ evs ∧
      ∀ k < n, ∃ u : State, core.run k s = .next u ∧ u.readByte u.pc ≠ 0x00) ∨
    (∃ (t : State) (evs : List DiagEvent), runUntilHalt fuel s = .noEnd t evs ∧ core.run fuel s = .next t ∧
      t.events = s.events ++ evs ∧
      ∀ k ≤ fuel, ∃ u : State, core.run k s = .next u ∧ u.readByte u.pc ≠ 0x00)

/-- R232, the spec's inference from R244 and R245: in a stopped state the run loop returns at once and changes nothing, and a further
`step` runs the 0x00 as NOP. -/
def Obligations.StoppedStateStays : Prop :=
  ∀ (fuel : Nat) (s : State), s.readByte s.pc = 0x00 →
    s.haltDetect = true ∧ runUntilHalt fuel s = .halted s [] ∧ step s = .next { s with pc := s.pc + 1 }
end

