-- ==== Sys2Proof/Laws/State.lean ====
section
/-! SUPPORT. One lemma per field per update of the state: what each named update leaves unchanged and what it writes. -/

namespace Sys2Proof.Machine

open Sys2Proof

/-! ### `State.writeByte` -/

@[simp] theorem State.writeByte_a (s : State) (addr : Word) (v : Byte) : (s.writeByte addr v).a = s.a := rfl

@[simp] theorem State.writeByte_f (s : State) (addr : Word) (v : Byte) : (s.writeByte addr v).f = s.f := rfl

@[simp] theorem State.writeByte_b (s : State) (addr : Word) (v : Byte) : (s.writeByte addr v).b = s.b := rfl

@[simp] theorem State.writeByte_c (s : State) (addr : Word) (v : Byte) : (s.writeByte addr v).c = s.c := rfl

@[simp] theorem State.writeByte_d (s : State) (addr : Word) (v : Byte) : (s.writeByte addr v).d = s.d := rfl

@[simp] theorem State.writeByte_e (s : State) (addr : Word) (v : Byte) : (s.writeByte addr v).e = s.e := rfl

@[simp] theorem State.writeByte_h (s : State) (addr : Word) (v : Byte) : (s.writeByte addr v).h = s.h := rfl

@[simp] theorem State.writeByte_l (s : State) (addr : Word) (v : Byte) : (s.writeByte addr v).l = s.l := rfl

@[simp] theorem State.writeByte_a' (s : State) (addr : Word) (v : Byte) : (s.writeByte addr v).a' = s.a' := rfl

@[simp] theorem State.writeByte_f' (s : State) (addr : Word) (v : Byte) : (s.writeByte addr v).f' = s.f' := rfl

@[simp] theorem State.writeByte_b' (s : State) (addr : Word) (v : Byte) : (s.writeByte addr v).b' = s.b' := rfl

@[simp] theorem State.writeByte_c' (s : State) (addr : Word) (v : Byte) : (s.writeByte addr v).c' = s.c' := rfl

@[simp] theorem State.writeByte_d' (s : State) (addr : Word) (v : Byte) : (s.writeByte addr v).d' = s.d' := rfl

@[simp] theorem State.writeByte_e' (s : State) (addr : Word) (v : Byte) : (s.writeByte addr v).e' = s.e' := rfl

@[simp] theorem State.writeByte_h' (s : State) (addr : Word) (v : Byte) : (s.writeByte addr v).h' = s.h' := rfl

@[simp] theorem State.writeByte_l' (s : State) (addr : Word) (v : Byte) : (s.writeByte addr v).l' = s.l' := rfl

@[simp] theorem State.writeByte_i (s : State) (addr : Word) (v : Byte) : (s.writeByte addr v).i = s.i := rfl

@[simp] theorem State.writeByte_r (s : State) (addr : Word) (v : Byte) : (s.writeByte addr v).r = s.r := rfl

@[simp] theorem State.writeByte_ix (s : State) (addr : Word) (v : Byte) : (s.writeByte addr v).ix = s.ix := rfl

@[simp] theorem State.writeByte_iy (s : State) (addr : Word) (v : Byte) : (s.writeByte addr v).iy = s.iy := rfl

@[simp] theorem State.writeByte_sp (s : State) (addr : Word) (v : Byte) : (s.writeByte addr v).sp = s.sp := rfl

@[simp] theorem State.writeByte_pc (s : State) (addr : Word) (v : Byte) : (s.writeByte addr v).pc = s.pc := rfl

@[simp] theorem State.writeByte_events (s : State) (addr : Word) (v : Byte) : (s.writeByte addr v).events = s.events := rfl

/-! ### `State.setReg8` -/

@[simp] theorem State.setReg8_f (s : State) (q : Reg8) (v : Byte) : (s.setReg8 q v).f = s.f := by cases q <;> rfl

@[simp] theorem State.setReg8_a' (s : State) (q : Reg8) (v : Byte) : (s.setReg8 q v).a' = s.a' := by cases q <;> rfl

@[simp] theorem State.setReg8_f' (s : State) (q : Reg8) (v : Byte) : (s.setReg8 q v).f' = s.f' := by cases q <;> rfl

@[simp] theorem State.setReg8_b' (s : State) (q : Reg8) (v : Byte) : (s.setReg8 q v).b' = s.b' := by cases q <;> rfl

@[simp] theorem State.setReg8_c' (s : State) (q : Reg8) (v : Byte) : (s.setReg8 q v).c' = s.c' := by cases q <;> rfl

@[simp] theorem State.setReg8_d' (s : State) (q : Reg8) (v : Byte) : (s.setReg8 q v).d' = s.d' := by cases q <;> rfl

@[simp] theorem State.setReg8_e' (s : State) (q : Reg8) (v : Byte) : (s.setReg8 q v).e' = s.e' := by cases q <;> rfl

@[simp] theorem State.setReg8_h' (s : State) (q : Reg8) (v : Byte) : (s.setReg8 q v).h' = s.h' := by cases q <;> rfl

@[simp] theorem State.setReg8_l' (s : State) (q : Reg8) (v : Byte) : (s.setReg8 q v).l' = s.l' := by cases q <;> rfl

@[simp] theorem State.setReg8_i (s : State) (q : Reg8) (v : Byte) : (s.setReg8 q v).i = s.i := by cases q <;> rfl

@[simp] theorem State.setReg8_r (s : State) (q : Reg8) (v : Byte) : (s.setReg8 q v).r = s.r := by cases q <;> rfl

@[simp] theorem State.setReg8_ix (s : State) (q : Reg8) (v : Byte) : (s.setReg8 q v).ix = s.ix := by cases q <;> rfl

@[simp] theorem State.setReg8_iy (s : State) (q : Reg8) (v : Byte) : (s.setReg8 q v).iy = s.iy := by cases q <;> rfl

@[simp] theorem State.setReg8_sp (s : State) (q : Reg8) (v : Byte) : (s.setReg8 q v).sp = s.sp := by cases q <;> rfl

@[simp] theorem State.setReg8_pc (s : State) (q : Reg8) (v : Byte) : (s.setReg8 q v).pc = s.pc := by cases q <;> rfl

@[simp] theorem State.setReg8_mem (s : State) (q : Reg8) (v : Byte) : (s.setReg8 q v).mem = s.mem := by cases q <;> rfl

@[simp] theorem State.setReg8_events (s : State) (q : Reg8) (v : Byte) : (s.setReg8 q v).events = s.events := by cases q <;> rfl

/-! ### `State.setF` -/

@[simp] theorem State.setF_a (s : State) (v : Byte) : (s.setF v).a = s.a := rfl

@[simp] theorem State.setF_b (s : State) (v : Byte) : (s.setF v).b = s.b := rfl

@[simp] theorem State.setF_c (s : State) (v : Byte) : (s.setF v).c = s.c := rfl

@[simp] theorem State.setF_d (s : State) (v : Byte) : (s.setF v).d = s.d := rfl

@[simp] theorem State.setF_e (s : State) (v : Byte) : (s.setF v).e = s.e := rfl

@[simp] theorem State.setF_h (s : State) (v : Byte) : (s.setF v).h = s.h := rfl

@[simp] theorem State.setF_l (s : State) (v : Byte) : (s.setF v).l = s.l := rfl

@[simp] theorem State.setF_a' (s : State) (v : Byte) : (s.setF v).a' = s.a' := rfl

@[simp] theorem State.setF_f' (s : State) (v : Byte) : (s.setF v).f' = s.f' := rfl

@[simp] theorem State.setF_b' (s : State) (v : Byte) : (s.setF v).b' = s.b' := rfl

@[simp] theorem State.setF_c' (s : State) (v : Byte) : (s.setF v).c' = s.c' := rfl

@[simp] theorem State.setF_d' (s : State) (v : Byte) : (s.setF v).d' = s.d' := rfl

@[simp] theorem State.setF_e' (s : State) (v : Byte) : (s.setF v).e' = s.e' := rfl

@[simp] theorem State.setF_h' (s : State) (v : Byte) : (s.setF v).h' = s.h' := rfl

@[simp] theorem State.setF_l' (s : State) (v : Byte) : (s.setF v).l' = s.l' := rfl

@[simp] theorem State.setF_i (s : State) (v : Byte) : (s.setF v).i = s.i := rfl

@[simp] theorem State.setF_r (s : State) (v : Byte) : (s.setF v).r = s.r := rfl

@[simp] theorem State.setF_ix (s : State) (v : Byte) : (s.setF v).ix = s.ix := rfl

@[simp] theorem State.setF_iy (s : State) (v : Byte) : (s.setF v).iy = s.iy := rfl

@[simp] theorem State.setF_sp (s : State) (v : Byte) : (s.setF v).sp = s.sp := rfl

@[simp] theorem State.setF_pc (s : State) (v : Byte) : (s.setF v).pc = s.pc := rfl

@[simp] theorem State.setF_mem (s : State) (v : Byte) : (s.setF v).mem = s.mem := rfl

@[simp] theorem State.setF_events (s : State) (v : Byte) : (s.setF v).events = s.events := rfl

/-! ### `State.setPair` -/

@[simp] theorem State.setPair_a (s : State) (p : Pair) (w : Word) : (s.setPair p w).a = s.a := by cases p <;> rfl

@[simp] theorem State.setPair_f (s : State) (p : Pair) (w : Word) : (s.setPair p w).f = s.f := by cases p <;> rfl

@[simp] theorem State.setPair_a' (s : State) (p : Pair) (w : Word) : (s.setPair p w).a' = s.a' := by cases p <;> rfl

@[simp] theorem State.setPair_f' (s : State) (p : Pair) (w : Word) : (s.setPair p w).f' = s.f' := by cases p <;> rfl

@[simp] theorem State.setPair_b' (s : State) (p : Pair) (w : Word) : (s.setPair p w).b' = s.b' := by cases p <;> rfl

@[simp] theorem State.setPair_c' (s : State) (p : Pair) (w : Word) : (s.setPair p w).c' = s.c' := by cases p <;> rfl

@[simp] theorem State.setPair_d' (s : State) (p : Pair) (w : Word) : (s.setPair p w).d' = s.d' := by cases p <;> rfl

@[simp] theorem State.setPair_e' (s : State) (p : Pair) (w : Word) : (s.setPair p w).e' = s.e' := by cases p <;> rfl

@[simp] theorem State.setPair_h' (s : State) (p : Pair) (w : Word) : (s.setPair p w).h' = s.h' := by cases p <;> rfl

@[simp] theorem State.setPair_l' (s : State) (p : Pair) (w : Word) : (s.setPair p w).l' = s.l' := by cases p <;> rfl

@[simp] theorem State.setPair_i (s : State) (p : Pair) (w : Word) : (s.setPair p w).i = s.i := by cases p <;> rfl

@[simp] theorem State.setPair_r (s : State) (p : Pair) (w : Word) : (s.setPair p w).r = s.r := by cases p <;> rfl

@[simp] theorem State.setPair_ix (s : State) (p : Pair) (w : Word) : (s.setPair p w).ix = s.ix := by cases p <;> rfl

@[simp] theorem State.setPair_iy (s : State) (p : Pair) (w : Word) : (s.setPair p w).iy = s.iy := by cases p <;> rfl

@[simp] theorem State.setPair_sp (s : State) (p : Pair) (w : Word) : (s.setPair p w).sp = s.sp := by cases p <;> rfl

@[simp] theorem State.setPair_pc (s : State) (p : Pair) (w : Word) : (s.setPair p w).pc = s.pc := by cases p <;> rfl

@[simp] theorem State.setPair_mem (s : State) (p : Pair) (w : Word) : (s.setPair p w).mem = s.mem := by cases p <;> rfl

@[simp] theorem State.setPair_events (s : State) (p : Pair) (w : Word) : (s.setPair p w).events = s.events := by cases p <;> rfl

/-! ### `State.setDest16` -/

@[simp] theorem State.setDest16_a (s : State) (dd : Dest16) (w : Word) : (s.setDest16 dd w).a = s.a := by
  cases dd with
  | pair p => cases p <;> rfl
  | sp => rfl

@[simp] theorem State.setDest16_f (s : State) (dd : Dest16) (w : Word) : (s.setDest16 dd w).f = s.f := by
  cases dd with
  | pair p => cases p <;> rfl
  | sp => rfl

@[simp] theorem State.setDest16_a' (s : State) (dd : Dest16) (w : Word) : (s.setDest16 dd w).a' = s.a' := by
  cases dd with
  | pair p => cases p <;> rfl
  | sp => rfl

@[simp] theorem State.setDest16_f' (s : State) (dd : Dest16) (w : Word) : (s.setDest16 dd w).f' = s.f' := by
  cases dd with
  | pair p => cases p <;> rfl
  | sp => rfl

@[simp] theorem State.setDest16_b' (s : State) (dd : Dest16) (w : Word) : (s.setDest16 dd w).b' = s.b' := by
  cases dd with
  | pair p => cases p <;> rfl
  | sp => rfl

@[simp] theorem State.setDest16_c' (s : State) (dd : Dest16) (w : Word) : (s.setDest16 dd w).c' = s.c' := by
  cases dd with
  | pair p => cases p <;> rfl
  | sp => rfl

@[simp] theorem State.setDest16_d' (s : State) (dd : Dest16) (w : Word) : (s.setDest16 dd w).d' = s.d' := by
  cases dd with
  | pair p => cases p <;> rfl
  | sp => rfl

@[simp] theorem State.setDest16_e' (s : State) (dd : Dest16) (w : Word) : (s.setDest16 dd w).e' = s.e' := by
  cases dd with
  | pair p => cases p <;> rfl
  | sp => rfl

@[simp] theorem State.setDest16_h' (s : State) (dd : Dest16) (w : Word) : (s.setDest16 dd w).h' = s.h' := by
  cases dd with
  | pair p => cases p <;> rfl
  | sp => rfl

@[simp] theorem State.setDest16_l' (s : State) (dd : Dest16) (w : Word) : (s.setDest16 dd w).l' = s.l' := by
  cases dd with
  | pair p => cases p <;> rfl
  | sp => rfl

@[simp] theorem State.setDest16_i (s : State) (dd : Dest16) (w : Word) : (s.setDest16 dd w).i = s.i := by
  cases dd with
  | pair p => cases p <;> rfl
  | sp => rfl

@[simp] theorem State.setDest16_r (s : State) (dd : Dest16) (w : Word) : (s.setDest16 dd w).r = s.r := by
  cases dd with
  | pair p => cases p <;> rfl
  | sp => rfl

@[simp] theorem State.setDest16_ix (s : State) (dd : Dest16) (w : Word) : (s.setDest16 dd w).ix = s.ix := by
  cases dd with
  | pair p => cases p <;> rfl
  | sp => rfl

@[simp] theorem State.setDest16_iy (s : State) (dd : Dest16) (w : Word) : (s.setDest16 dd w).iy = s.iy := by
  cases dd with
  | pair p => cases p <;> rfl
  | sp => rfl

@[simp] theorem State.setDest16_pc (s : State) (dd : Dest16) (w : Word) : (s.setDest16 dd w).pc = s.pc := by
  cases dd with
  | pair p => cases p <;> rfl
  | sp => rfl

@[simp] theorem State.setDest16_mem (s : State) (dd : Dest16) (w : Word) : (s.setDest16 dd w).mem = s.mem := by
  cases dd with
  | pair p => cases p <;> rfl
  | sp => rfl

@[simp] theorem State.setDest16_events (s : State) (dd : Dest16) (w : Word) : (s.setDest16 dd w).events = s.events := by
  cases dd with
  | pair p => cases p <;> rfl
  | sp => rfl

/-! ### `State.setIdx` -/

@[simp] theorem State.setIdx_a (s : State) (x : Idx) (w : Word) : (s.setIdx x w).a = s.a := by cases x <;> rfl

@[simp] theorem State.setIdx_f (s : State) (x : Idx) (w : Word) : (s.setIdx x w).f = s.f := by cases x <;> rfl

@[simp] theorem State.setIdx_b (s : State) (x : Idx) (w : Word) : (s.setIdx x w).b = s.b := by cases x <;> rfl

@[simp] theorem State.setIdx_c (s : State) (x : Idx) (w : Word) : (s.setIdx x w).c = s.c := by cases x <;> rfl

@[simp] theorem State.setIdx_d (s : State) (x : Idx) (w : Word) : (s.setIdx x w).d = s.d := by cases x <;> rfl

@[simp] theorem State.setIdx_e (s : State) (x : Idx) (w : Word) : (s.setIdx x w).e = s.e := by cases x <;> rfl

@[simp] theorem State.setIdx_h (s : State) (x : Idx) (w : Word) : (s.setIdx x w).h = s.h := by cases x <;> rfl

@[simp] theorem State.setIdx_l (s : State) (x : Idx) (w : Word) : (s.setIdx x w).l = s.l := by cases x <;> rfl

@[simp] theorem State.setIdx_a' (s : State) (x : Idx) (w : Word) : (s.setIdx x w).a' = s.a' := by cases x <;> rfl

@[simp] theorem State.setIdx_f' (s : State) (x : Idx) (w : Word) : (s.setIdx x w).f' = s.f' := by cases x <;> rfl

@[simp] theorem State.setIdx_b' (s : State) (x : Idx) (w : Word) : (s.setIdx x w).b' = s.b' := by cases x <;> rfl

@[simp] theorem State.setIdx_c' (s : State) (x : Idx) (w : Word) : (s.setIdx x w).c' = s.c' := by cases x <;> rfl

@[simp] theorem State.setIdx_d' (s : State) (x : Idx) (w : Word) : (s.setIdx x w).d' = s.d' := by cases x <;> rfl

@[simp] theorem State.setIdx_e' (s : State) (x : Idx) (w : Word) : (s.setIdx x w).e' = s.e' := by cases x <;> rfl

@[simp] theorem State.setIdx_h' (s : State) (x : Idx) (w : Word) : (s.setIdx x w).h' = s.h' := by cases x <;> rfl

@[simp] theorem State.setIdx_l' (s : State) (x : Idx) (w : Word) : (s.setIdx x w).l' = s.l' := by cases x <;> rfl

@[simp] theorem State.setIdx_i (s : State) (x : Idx) (w : Word) : (s.setIdx x w).i = s.i := by cases x <;> rfl

@[simp] theorem State.setIdx_r (s : State) (x : Idx) (w : Word) : (s.setIdx x w).r = s.r := by cases x <;> rfl

@[simp] theorem State.setIdx_sp (s : State) (x : Idx) (w : Word) : (s.setIdx x w).sp = s.sp := by cases x <;> rfl

@[simp] theorem State.setIdx_pc (s : State) (x : Idx) (w : Word) : (s.setIdx x w).pc = s.pc := by cases x <;> rfl

@[simp] theorem State.setIdx_mem (s : State) (x : Idx) (w : Word) : (s.setIdx x w).mem = s.mem := by cases x <;> rfl

@[simp] theorem State.setIdx_events (s : State) (x : Idx) (w : Word) : (s.setIdx x w).events = s.events := by cases x <;> rfl

/-! ### `State.advance` -/

@[simp] theorem State.advance_a (s : State) (n : Nat) : (s.advance n).a = s.a := rfl

@[simp] theorem State.advance_f (s : State) (n : Nat) : (s.advance n).f = s.f := rfl

@[simp] theorem State.advance_b (s : State) (n : Nat) : (s.advance n).b = s.b := rfl

@[simp] theorem State.advance_c (s : State) (n : Nat) : (s.advance n).c = s.c := rfl

@[simp] theorem State.advance_d (s : State) (n : Nat) : (s.advance n).d = s.d := rfl

@[simp] theorem State.advance_e (s : State) (n : Nat) : (s.advance n).e = s.e := rfl

@[simp] theorem State.advance_h (s : State) (n : Nat) : (s.advance n).h = s.h := rfl

@[simp] theorem State.advance_l (s : State) (n : Nat) : (s.advance n).l = s.l := rfl

@[simp] theorem State.advance_a' (s : State) (n : Nat) : (s.advance n).a' = s.a' := rfl

@[simp] theorem State.advance_f' (s : State) (n : Nat) : (s.advance n).f' = s.f' := rfl

@[simp] theorem State.advance_b' (s : State) (n : Nat) : (s.advance n).b' = s.b' := rfl

@[simp] theorem State.advance_c' (s : State) (n : Nat) : (s.advance n).c' = s.c' := rfl

@[simp] theorem State.advance_d' (s : State) (n : Nat) : (s.advance n).d' = s.d' := rfl

@[simp] theorem State.advance_e' (s : State) (n : Nat) : (s.advance n).e' = s.e' := rfl

@[simp] theorem State.advance_h' (s : State) (n : Nat) : (s.advance n).h' = s.h' := rfl

@[simp] theorem State.advance_l' (s : State) (n : Nat) : (s.advance n).l' = s.l' := rfl

@[simp] theorem State.advance_i (s : State) (n : Nat) : (s.advance n).i = s.i := rfl

@[simp] theorem State.advance_r (s : State) (n : Nat) : (s.advance n).r = s.r := rfl

@[simp] theorem State.advance_ix (s : State) (n : Nat) : (s.advance n).ix = s.ix := rfl

@[simp] theorem State.advance_iy (s : State) (n : Nat) : (s.advance n).iy = s.iy := rfl

@[simp] theorem State.advance_sp (s : State) (n : Nat) : (s.advance n).sp = s.sp := rfl

@[simp] theorem State.advance_mem (s : State) (n : Nat) : (s.advance n).mem = s.mem := rfl

@[simp] theorem State.advance_events (s : State) (n : Nat) : (s.advance n).events = s.events := rfl

/-! ### `State.jump` -/

@[simp] theorem State.jump_a (s : State) (target : Word) : (s.jump target).a = s.a := rfl

@[simp] theorem State.jump_f (s : State) (target : Word) : (s.jump target).f = s.f := rfl

@[simp] theorem State.jump_b (s : State) (target : Word) : (s.jump target).b = s.b := rfl

@[simp] theorem State.jump_c (s : State) (target : Word) : (s.jump target).c = s.c := rfl

@[simp] theorem State.jump_d (s : State) (target : Word) : (s.jump target).d = s.d := rfl

@[simp] theorem State.jump_e (s : State) (target : Word) : (s.jump target).e = s.e := rfl

@[simp] theorem State.jump_h (s : State) (target : Word) : (s.jump target).h = s.h := rfl

@[simp] theorem State.jump_l (s : State) (target : Word) : (s.jump target).l = s.l := rfl

@[simp] theorem State.jump_a' (s : State) (target : Word) : (s.jump target).a' = s.a' := rfl

@[simp] theorem State.jump_f' (s : State) (target : Word) : (s.jump target).f' = s.f' := rfl

@[simp] theorem State.jump_b' (s : State) (target : Word) : (s.jump target).b' = s.b' := rfl

@[simp] theorem State.jump_c' (s : State) (target : Word) : (s.jump target).c' = s.c' := rfl

@[simp] theorem State.jump_d' (s : State) (target : Word) : (s.jump target).d' = s.d' := rfl

@[simp] theorem State.jump_e' (s : State) (target : Word) : (s.jump target).e' = s.e' := rfl

@[simp] theorem State.jump_h' (s : State) (target : Word) : (s.jump target).h' = s.h' := rfl

@[simp] theorem State.jump_l' (s : State) (target : Word) : (s.jump target).l' = s.l' := rfl

@[simp] theorem State.jump_i (s : State) (target : Word) : (s.jump target).i = s.i := rfl

@[simp] theorem State.jump_r (s : State) (target : Word) : (s.jump target).r = s.r := rfl

@[simp] theorem State.jump_ix (s : State) (target : Word) : (s.jump target).ix = s.ix := rfl

@[simp] theorem State.jump_iy (s : State) (target : Word) : (s.jump target).iy = s.iy := rfl

@[simp] theorem State.jump_sp (s : State) (target : Word) : (s.jump target).sp = s.sp := rfl

@[simp] theorem State.jump_mem (s : State) (target : Word) : (s.jump target).mem = s.mem := rfl

@[simp] theorem State.jump_events (s : State) (target : Word) : (s.jump target).events = s.events := rfl

/-! ### `State.jumpRel` -/

@[simp] theorem State.jumpRel_a (s : State) (disp : Byte) : (s.jumpRel disp).a = s.a := rfl

@[simp] theorem State.jumpRel_f (s : State) (disp : Byte) : (s.jumpRel disp).f = s.f := rfl

@[simp] theorem State.jumpRel_b (s : State) (disp : Byte) : (s.jumpRel disp).b = s.b := rfl

@[simp] theorem State.jumpRel_c (s : State) (disp : Byte) : (s.jumpRel disp).c = s.c := rfl

@[simp] theorem State.jumpRel_d (s : State) (disp : Byte) : (s.jumpRel disp).d = s.d := rfl

@[simp] theorem State.jumpRel_e (s : State) (disp : Byte) : (s.jumpRel disp).e = s.e := rfl

@[simp] theorem State.jumpRel_h (s : State) (disp : Byte) : (s.jumpRel disp).h = s.h := rfl

@[simp] theorem State.jumpRel_l (s : State) (disp : Byte) : (s.jumpRel disp).l = s.l := rfl

@[simp] theorem State.jumpRel_a' (s : State) (disp : Byte) : (s.jumpRel disp).a' = s.a' := rfl

@[simp] theorem State.jumpRel_f' (s : State) (disp : Byte) : (s.jumpRel disp).f' = s.f' := rfl

@[simp] theorem State.jumpRel_b' (s : State) (disp : Byte) : (s.jumpRel disp).b' = s.b' := rfl

@[simp] theorem State.jumpRel_c' (s : State) (disp : Byte) : (s.jumpRel disp).c' = s.c' := rfl

@[simp] theorem State.jumpRel_d' (s : State) (disp : Byte) : (s.jumpRel disp).d' = s.d' := rfl

@[simp] theorem State.jumpRel_e' (s : State) (disp : Byte) : (s.jumpRel disp).e' = s.e' := rfl

@[simp] theorem State.jumpRel_h' (s : State) (disp : Byte) : (s.jumpRel disp).h' = s.h' := rfl

@[simp] theorem State.jumpRel_l' (s : State) (disp : Byte) : (s.jumpRel disp).l' = s.l' := rfl

@[simp] theorem State.jumpRel_i (s : State) (disp : Byte) : (s.jumpRel disp).i = s.i := rfl

@[simp] theorem State.jumpRel_r (s : State) (disp : Byte) : (s.jumpRel disp).r = s.r := rfl

@[simp] theorem State.jumpRel_ix (s : State) (disp : Byte) : (s.jumpRel disp).ix = s.ix := rfl

@[simp] theorem State.jumpRel_iy (s : State) (disp : Byte) : (s.jumpRel disp).iy = s.iy := rfl

@[simp] theorem State.jumpRel_sp (s : State) (disp : Byte) : (s.jumpRel disp).sp = s.sp := rfl

@[simp] theorem State.jumpRel_mem (s : State) (disp : Byte) : (s.jumpRel disp).mem = s.mem := rfl

@[simp] theorem State.jumpRel_events (s : State) (disp : Byte) : (s.jumpRel disp).events = s.events := rfl

/-! ### `State.emit` -/

@[simp] theorem State.emit_a (s : State) (ev : DiagEvent) : (s.emit ev).a = s.a := rfl

@[simp] theorem State.emit_f (s : State) (ev : DiagEvent) : (s.emit ev).f = s.f := rfl

@[simp] theorem State.emit_b (s : State) (ev : DiagEvent) : (s.emit ev).b = s.b := rfl

@[simp] theorem State.emit_c (s : State) (ev : DiagEvent) : (s.emit ev).c = s.c := rfl

@[simp] theorem State.emit_d (s : State) (ev : DiagEvent) : (s.emit ev).d = s.d := rfl

@[simp] theorem State.emit_e (s : State) (ev : DiagEvent) : (s.emit ev).e = s.e := rfl

@[simp] theorem State.emit_h (s : State) (ev : DiagEvent) : (s.emit ev).h = s.h := rfl

@[simp] theorem State.emit_l (s : State) (ev : DiagEvent) : (s.emit ev).l = s.l := rfl

@[simp] theorem State.emit_a' (s : State) (ev : DiagEvent) : (s.emit ev).a' = s.a' := rfl

@[simp] theorem State.emit_f' (s : State) (ev : DiagEvent) : (s.emit ev).f' = s.f' := rfl

@[simp] theorem State.emit_b' (s : State) (ev : DiagEvent) : (s.emit ev).b' = s.b' := rfl

@[simp] theorem State.emit_c' (s : State) (ev : DiagEvent) : (s.emit ev).c' = s.c' := rfl

@[simp] theorem State.emit_d' (s : State) (ev : DiagEvent) : (s.emit ev).d' = s.d' := rfl

@[simp] theorem State.emit_e' (s : State) (ev : DiagEvent) : (s.emit ev).e' = s.e' := rfl

@[simp] theorem State.emit_h' (s : State) (ev : DiagEvent) : (s.emit ev).h' = s.h' := rfl

@[simp] theorem State.emit_l' (s : State) (ev : DiagEvent) : (s.emit ev).l' = s.l' := rfl

@[simp] theorem State.emit_i (s : State) (ev : DiagEvent) : (s.emit ev).i = s.i := rfl

@[simp] theorem State.emit_r (s : State) (ev : DiagEvent) : (s.emit ev).r = s.r := rfl

@[simp] theorem State.emit_ix (s : State) (ev : DiagEvent) : (s.emit ev).ix = s.ix := rfl

@[simp] theorem State.emit_iy (s : State) (ev : DiagEvent) : (s.emit ev).iy = s.iy := rfl

@[simp] theorem State.emit_sp (s : State) (ev : DiagEvent) : (s.emit ev).sp = s.sp := rfl

@[simp] theorem State.emit_pc (s : State) (ev : DiagEvent) : (s.emit ev).pc = s.pc := rfl

@[simp] theorem State.emit_mem (s : State) (ev : DiagEvent) : (s.emit ev).mem = s.mem := rfl

/-! ### `State.decB` -/

@[simp] theorem State.decB_a (s : State) : s.decB.a = s.a := rfl

@[simp] theorem State.decB_f (s : State) : s.decB.f = s.f := rfl

@[simp] theorem State.decB_c (s : State) : s.decB.c = s.c := rfl

@[simp] theorem State.decB_d (s : State) : s.decB.d = s.d := rfl

@[simp] theorem State.decB_e (s : State) : s.decB.e = s.e := rfl

@[simp] theorem State.decB_h (s : State) : s.decB.h = s.h := rfl

@[simp] theorem State.decB_l (s : State) : s.decB.l = s.l := rfl

@[simp] theorem State.decB_a' (s : State) : s.decB.a' = s.a' := rfl

@[simp] theorem State.decB_f' (s : State) : s.decB.f' = s.f' := rfl

@[simp] theorem State.decB_b' (s : State) : s.decB.b' = s.b' := rfl

@[simp] theorem State.decB_c' (s : State) : s.decB.c' = s.c' := rfl

@[simp] theorem State.decB_d' (s : State) : s.decB.d' = s.d' := rfl

@[simp] theorem State.decB_e' (s : State) : s.decB.e' = s.e' := rfl

@[simp] theorem State.decB_h' (s : State) : s.decB.h' = s.h' := rfl

@[simp] theorem State.decB_l' (s : State) : s.decB.l' = s.l' := rfl

@[simp] theorem State.decB_i (s : State) : s.decB.i = s.i := rfl

@[simp] theorem State.decB_r (s : State) : s.decB.r = s.r := rfl

@[simp] theorem State.decB_ix (s : State) : s.decB.ix = s.ix := rfl

@[simp] theorem State.decB_iy (s : State) : s.decB.iy = s.iy := rfl

@[simp] theorem State.decB_sp (s : State) : s.decB.sp = s.sp := rfl

@[simp] theorem State.decB_pc (s : State) : s.decB.pc = s.pc := rfl

@[simp] theorem State.decB_mem (s : State) : s.decB.mem = s.mem := rfl

@[simp] theorem State.decB_events (s : State) : s.decB.events = s.events := rfl

/-! ### `State.alu` -/

@[simp] theorem State.alu_b (s : State) (op : AluOp) (src : Operand) : (s.alu op src).b = s.b := rfl

@[simp] theorem State.alu_c (s : State) (op : AluOp) (src : Operand) : (s.alu op src).c = s.c := rfl

@[simp] theorem State.alu_d (s : State) (op : AluOp) (src : Operand) : (s.alu op src).d = s.d := rfl

@[simp] theorem State.alu_e (s : State) (op : AluOp) (src : Operand) : (s.alu op src).e = s.e := rfl

@[simp] theorem State.alu_h (s : State) (op : AluOp) (src : Operand) : (s.alu op src).h = s.h := rfl

@[simp] theorem State.alu_l (s : State) (op : AluOp) (src : Operand) : (s.alu op src).l = s.l := rfl

@[simp] theorem State.alu_a' (s : State) (op : AluOp) (src : Operand) : (s.alu op src).a' = s.a' := rfl

@[simp] theorem State.alu_f' (s : State) (op : AluOp) (src : Operand) : (s.alu op src).f' = s.f' := rfl

@[simp] theorem State.alu_b' (s : State) (op : AluOp) (src : Operand) : (s.alu op src).b' = s.b' := rfl

@[simp] theorem State.alu_c' (s : State) (op : AluOp) (src : Operand) : (s.alu op src).c' = s.c' := rfl

@[simp] theorem State.alu_d' (s : State) (op : AluOp) (src : Operand) : (s.alu op src).d' = s.d' := rfl

@[simp] theorem State.alu_e' (s : State) (op : AluOp) (src : Operand) : (s.alu op src).e' = s.e' := rfl

@[simp] theorem State.alu_h' (s : State) (op : AluOp) (src : Operand) : (s.alu op src).h' = s.h' := rfl

@[simp] theorem State.alu_l' (s : State) (op : AluOp) (src : Operand) : (s.alu op src).l' = s.l' := rfl

@[simp] theorem State.alu_i (s : State) (op : AluOp) (src : Operand) : (s.alu op src).i = s.i := rfl

@[simp] theorem State.alu_r (s : State) (op : AluOp) (src : Operand) : (s.alu op src).r = s.r := rfl

@[simp] theorem State.alu_ix (s : State) (op : AluOp) (src : Operand) : (s.alu op src).ix = s.ix := rfl

@[simp] theorem State.alu_iy (s : State) (op : AluOp) (src : Operand) : (s.alu op src).iy = s.iy := rfl

@[simp] theorem State.alu_sp (s : State) (op : AluOp) (src : Operand) : (s.alu op src).sp = s.sp := rfl

@[simp] theorem State.alu_pc (s : State) (op : AluOp) (src : Operand) : (s.alu op src).pc = s.pc := rfl

@[simp] theorem State.alu_mem (s : State) (op : AluOp) (src : Operand) : (s.alu op src).mem = s.mem := rfl

@[simp] theorem State.alu_events (s : State) (op : AluOp) (src : Operand) : (s.alu op src).events = s.events := rfl

/-! ### What the updates write -/

@[simp] theorem State.writeByte_mem (s : State) (addr : Word) (v : Byte) : (s.writeByte addr v).mem = s.mem.write addr v := rfl

@[simp] theorem State.setF_f (s : State) (v : Byte) : (s.setF v).f = v := rfl

@[simp] theorem State.advance_pc (s : State) (n : Nat) : (s.advance n).pc = s.pc + BitVec.ofNat 16 n := rfl

@[simp] theorem State.jump_pc (s : State) (target : Word) : (s.jump target).pc = target := rfl

@[simp] theorem State.jumpRel_pc (s : State) (disp : Byte) : (s.jumpRel disp).pc = s.pc + sext16 disp := rfl

@[simp] theorem State.emit_events (s : State) (ev : DiagEvent) : (s.emit ev).events = s.events ++ [ev] := rfl

@[simp] theorem State.decB_b (s : State) : s.decB.b = s.b - 1 := rfl

@[simp] theorem State.alu_a (s : State) (op : AluOp) (src : Operand) :
    (s.alu op src).a = if aluWritesA op then (aluEval op s.a (s.readOperand src) (flagC s.f)).1 else s.a := rfl

@[simp] theorem State.alu_f (s : State) (op : AluOp) (src : Operand) :
    (s.alu op src).f = (aluEval op s.a (s.readOperand src) (flagC s.f)).2 := rfl

@[simp] theorem State.reg8_setReg8 (s : State) (q r : Reg8) (v : Byte) :
    (s.setReg8 q v).reg8 r = if r = q then v else s.reg8 r := by
  cases q <;> cases r <;> rfl

@[simp] theorem State.idx_setIdx (s : State) (x y : Idx) (w : Word) :
    (s.setIdx x w).idx y = if y = x then w else s.idx y := by
  cases x <;> cases y <;> rfl

@[simp] theorem State.setDest16_pair (s : State) (p : Pair) (w : Word) : s.setDest16 (.pair p) w = s.setPair p w := rfl

@[simp] theorem State.setDest16_sp (s : State) (w : Word) : (s.setDest16 .sp w).sp = w := rfl

/-! ### The seven registers, through their accessor -/

@[simp] theorem State.reg8_writeByte (s : State) (addr : Word) (v : Byte) (q : Reg8) : (s.writeByte addr v).reg8 q = s.reg8 q := by cases q <;> rfl

@[simp] theorem State.reg8_setIdx (s : State) (x : Idx) (w : Word) (q : Reg8) : (s.setIdx x w).reg8 q = s.reg8 q := by cases x <;> cases q <;> rfl

@[simp] theorem State.reg8_advance (s : State) (n : Nat) (q : Reg8) : (s.advance n).reg8 q = s.reg8 q := by cases q <;> rfl

@[simp] theorem State.reg8_jump (s : State) (target : Word) (q : Reg8) : (s.jump target).reg8 q = s.reg8 q := by cases q <;> rfl

@[simp] theorem State.reg8_jumpRel (s : State) (disp : Byte) (q : Reg8) : (s.jumpRel disp).reg8 q = s.reg8 q := by cases q <;> rfl

@[simp] theorem State.reg8_emit (s : State) (ev : DiagEvent) (q : Reg8) : (s.emit ev).reg8 q = s.reg8 q := by cases q <;> rfl

@[simp] theorem State.reg8_setF (s : State) (v : Byte) (q : Reg8) : (s.setF v).reg8 q = s.reg8 q := by cases q <;> rfl

/-! ### Memory, through its accessor -/

@[simp] theorem State.readByte_setReg8 (s : State) (q : Reg8) (v : Byte) (k : Word) : (s.setReg8 q v).readByte k = s.readByte k := by
  simp [State.readByte]

@[simp] theorem State.readByte_setPair (s : State) (p : Pair) (w : Word) (k : Word) : (s.setPair p w).readByte k = s.readByte k := by
  simp [State.readByte]

@[simp] theorem State.readByte_setDest16 (s : State) (dd : Dest16) (w : Word) (k : Word) : (s.setDest16 dd w).readByte k = s.readByte k := by
  simp [State.readByte]

@[simp] theorem State.readByte_setIdx (s : State) (x : Idx) (w : Word) (k : Word) : (s.setIdx x w).readByte k = s.readByte k := by
  simp [State.readByte]

@[simp] theorem State.readByte_advance (s : State) (n : Nat) (k : Word) : (s.advance n).readByte k = s.readByte k := by
  simp [State.readByte]

@[simp] theorem State.readByte_jump (s : State) (target : Word) (k : Word) : (s.jump target).readByte k = s.readByte k := by
  simp [State.readByte]

@[simp] theorem State.readByte_jumpRel (s : State) (disp : Byte) (k : Word) : (s.jumpRel disp).readByte k = s.readByte k := by
  simp [State.readByte]

@[simp] theorem State.readByte_emit (s : State) (ev : DiagEvent) (k : Word) : (s.emit ev).readByte k = s.readByte k := by
  simp [State.readByte]

@[simp] theorem State.readByte_decB (s : State) (k : Word) : s.decB.readByte k = s.readByte k := by
  simp [State.readByte]

@[simp] theorem State.readByte_alu (s : State) (op : AluOp) (src : Operand) (k : Word) : (s.alu op src).readByte k = s.readByte k := by
  simp [State.readByte]

@[simp] theorem State.readByte_setF (s : State) (v : Byte) (k : Word) : (s.setF v).readByte k = s.readByte k := rfl

/-! ### Pairs (R23, R24) -/

theorem getLsbD_joinBytes (hi lo : Byte) (k : Nat) :
    (joinBytes hi lo).getLsbD k = if k < 8 then lo.getLsbD k else hi.getLsbD (k - 8) := by
  have h := BitVec.getLsbD_append (x := hi) (y := lo) (i := k)
  cases hk : decide (k < 8) <;> simp_all [joinBytes]

theorem getLsbD_hiByte (w : Word) (k : Nat) : (hiByte w).getLsbD k = (decide (k < 8) && w.getLsbD (8 + k)) :=
  BitVec.getLsbD_extractLsb' ..

theorem getLsbD_loByte (w : Word) (k : Nat) : (loByte w).getLsbD k = (decide (k < 8) && w.getLsbD (0 + k)) :=
  BitVec.getLsbD_extractLsb' ..

@[simp] theorem hiByte_joinBytes (hi lo : Byte) : hiByte (joinBytes hi lo) = hi := by
  apply BitVec.eq_of_getLsbD_eq
  intro k hk
  rw [getLsbD_hiByte, getLsbD_joinBytes]
  simp [hk]

@[simp] theorem loByte_joinBytes (hi lo : Byte) : loByte (joinBytes hi lo) = lo := by
  apply BitVec.eq_of_getLsbD_eq
  intro k hk
  rw [getLsbD_loByte, getLsbD_joinBytes]
  simp [hk]

@[simp] theorem joinBytes_hi_lo (w : Word) : joinBytes (hiByte w) (loByte w) = w := by
  apply BitVec.eq_of_getLsbD_eq
  intro k hk
  rw [getLsbD_joinBytes, getLsbD_hiByte, getLsbD_loByte]
  by_cases h : k < 8
  · simp [h]
  · have h1 : k - 8 < 8 := by omega
    have h2 : 8 + (k - 8) = k := by omega
    simp [h, h1, h2]

end Sys2Proof.Machine
end

