-- ==== Sys2Proof/Laws/Decode.lean ====
section
/-! SUPPORT. The small lemmas of the decoder and encoder: the field tables invert, the fields of an opcode byte, and what a row of
the tables builds. -/

namespace Sys2Proof

@[simp] theorem Reg8.ofCode_code (r : Reg8) : Reg8.ofCode r.code = some r := by cases r <;> rfl

@[simp] theorem Reg8.ofCode_memCode : Reg8.ofCode memCode = none := rfl

@[simp] theorem Cond.ofCode_code (cc : Cond) : Cond.ofCode cc.code = cc := by cases cc <;> rfl

@[simp] theorem AluOp.ofCode_code (op : AluOp) : AluOp.ofCode op.code = op := by cases op <;> rfl

@[simp] theorem Dest16.ofCode_code (dd : Dest16) : Dest16.ofCode dd.code = dd := by
  cases dd with
  | pair p => cases p <;> rfl
  | sp => rfl

@[simp] theorem Idx.ofEscape_escape (x : Idx) : Idx.ofEscape x.escape = some x := by cases x <;> rfl

theorem Idx.ofEscape_eq_some {o : Byte} {x : Idx} (h : Idx.ofEscape o = some x) : o = x.escape := by
  unfold Idx.ofEscape at h
  split at h
  · cases h; assumption
  · split at h
    · cases h; assumption
    · cases h

theorem Idx.ofEscape_eq_none {o : Byte} : Idx.ofEscape o = none ↔ o ≠ 0xDD ∧ o ≠ 0xFD := by
  unfold Idx.ofEscape
  split
  · simp_all
  · split <;> simp_all

@[simp] theorem AluOp.instrR_format (op : AluOp) (r : Reg8) : (op.instrR r).format = some .op := by cases op <;> rfl

@[simp] theorem AluOp.instrHl_format (op : AluOp) : op.instrHl.format = some .op := by cases op <;> rfl

@[simp] theorem AluOp.instrN_format (op : AluOp) (n : Byte) : (op.instrN n).format = some .opN := by cases op <;> rfl

@[simp] theorem AluOp.instrXd_format (op : AluOp) (x : Idx) (d : Byte) : (op.instrXd x d).format = some .pxOpD := by
  cases op <;> rfl

theorem Format.length_bounds (fmt : Format) : 1 ≤ fmt.length ∧ fmt.length ≤ 4 := by cases fmt <;> decide

/-- An instruction consumes 1 to 4 bytes (R70). -/
theorem Instr.length_bounds (i : Instr) : 1 ≤ i.length ∧ i.length ≤ 4 := by
  unfold Instr.length
  split
  · exact Format.length_bounds _
  · decide

/-- A primary row's instruction has the row's format, whatever its operand bytes, and is well formed. -/
theorem primaryRow_build {o : Byte} {row : OpRow} (h : primaryRow o = some row) (p q : Byte) :
    (row.build p q).format = some row.format ∧ (row.build p q).wf = true := by
  have wfR : ∀ (op : AluOp) r, (op.instrR r).wf = true := fun op r => by cases op <;> rfl
  have wfHl : ∀ op : AluOp, op.instrHl.wf = true := fun op => by cases op <;> rfl
  have wfN : ∀ (op : AluOp) n, (op.instrN n).wf = true := fun op n => by cases op <;> rfl
  unfold primaryRow at h
  split at h
  · unfold primaryRowX0 at h
    repeat' split at h
    all_goals first | (cases h; exact ⟨rfl, rfl⟩) | cases h
  · unfold primaryRowX1 at h
    repeat' split at h
    all_goals first | (cases h; exact ⟨rfl, rfl⟩) | cases h
  · unfold primaryRowX2 at h
    split at h <;> cases h
    · exact ⟨AluOp.instrR_format .., wfR ..⟩
    · exact ⟨AluOp.instrHl_format .., wfHl ..⟩
  · unfold primaryRowX3 at h
    repeat' split at h
    all_goals first | (cases h; exact ⟨AluOp.instrN_format .., wfN ..⟩) | (cases h; exact ⟨rfl, rfl⟩) | cases h

/-- The same of a row an escape byte's table holds. -/
theorem escapedRow_build {x : Idx} {o : Byte} {row : OpRow} (h : escapedRow x o = some row) (p q : Byte) :
    (row.build p q).format = some row.format ∧ (row.build p q).wf = true := by
  have wfXd : ∀ (op : AluOp) d, (op.instrXd x d).wf = true := fun op d => by cases op <;> rfl
  unfold escapedRow at h
  repeat' split at h
  all_goals
    first
      | (cases h; exact ⟨AluOp.instrXd_format .., wfXd ..⟩)
      | (cases h; exact ⟨rfl, rfl⟩)
      | cases h

/-- No escape byte is a row of the primary table. -/
theorem primaryRow_escape (x : Idx) : primaryRow x.escape = none := by cases x <;> rfl

/-- The rows of an escape byte's table are the 32 second bytes of R80. -/
theorem escapedRow_isSome (x : Idx) (o : Byte) : (escapedRow x o).isSome = knownSecondBytes.contains o := by
  revert o
  cases x <;> decide

theorem decode_one (b0 : Byte) (rest : List Byte) :
    decode (b0 :: rest) = decodeFour b0 (rest.getD 0 0) (rest.getD 1 0) (rest.getD 2 0) := rfl

theorem decode_two (b0 b1 : Byte) (rest : List Byte) :
    decode (b0 :: b1 :: rest) = decodeFour b0 b1 (rest.getD 0 0) (rest.getD 1 0) := rfl

theorem decode_three (b0 b1 b2 : Byte) (rest : List Byte) :
    decode (b0 :: b1 :: b2 :: rest) = decodeFour b0 b1 b2 (rest.getD 0 0) := rfl

@[simp] theorem decode_four (b0 b1 b2 b3 : Byte) (rest : List Byte) :
    decode (b0 :: b1 :: b2 :: b3 :: rest) = decodeFour b0 b1 b2 b3 := rfl

end Sys2Proof
end

