-- ==== Sys2Proof/Laws/Flags.lean ====
section
/-! SUPPORT. The F byte's bits, and what the ALU can write to F. -/

namespace Sys2Proof.Machine

open Sys2Proof

variable (s z h pv n c : Bool)

@[simp] theorem flagS_packFlags : flagS (packFlags s z h pv n c) = s := by
  cases s <;> cases z <;> cases h <;> cases pv <;> cases n <;> cases c <;> rfl

@[simp] theorem flagZ_packFlags : flagZ (packFlags s z h pv n c) = z := by
  cases s <;> cases z <;> cases h <;> cases pv <;> cases n <;> cases c <;> rfl

@[simp] theorem flagH_packFlags : flagH (packFlags s z h pv n c) = h := by
  cases s <;> cases z <;> cases h <;> cases pv <;> cases n <;> cases c <;> rfl

@[simp] theorem flagPV_packFlags : flagPV (packFlags s z h pv n c) = pv := by
  cases s <;> cases z <;> cases h <;> cases pv <;> cases n <;> cases c <;> rfl

@[simp] theorem flagN_packFlags : flagN (packFlags s z h pv n c) = n := by
  cases s <;> cases z <;> cases h <;> cases pv <;> cases n <;> cases c <;> rfl

@[simp] theorem flagC_packFlags : flagC (packFlags s z h pv n c) = c := by
  cases s <;> cases z <;> cases h <;> cases pv <;> cases n <;> cases c <;> rfl

theorem packFlags_bit5 : (packFlags s z h pv n c).getLsbD 5 = false := by
  cases s <;> cases z <;> cases h <;> cases pv <;> cases n <;> cases c <;> rfl

@[simp] theorem packFlags_getElem5 : (packFlags s z h pv n c)[5] = false := packFlags_bit5 ..

theorem packFlags_bit3 : (packFlags s z h pv n c).getLsbD 3 = false := by
  cases s <;> cases z <;> cases h <;> cases pv <;> cases n <;> cases c <;> rfl

@[simp] theorem packFlags_getElem3 : (packFlags s z h pv n c)[3] = false := packFlags_bit3 ..

/-- Whatever the ALU writes to F is a packed F byte, so nothing of the old F survives and bits 5 and 3 are clear (R139). -/
theorem aluEval_flags_packed (op : AluOp) (a v : Byte) (cin : Bool) :
    ∃ s z h pv n c, (aluEval op a v cin).2 = packFlags s z h pv n c := by
  cases op <;> exact ⟨_, _, _, _, _, _, rfl⟩

theorem arith_flags_packed (a b : Byte) (cin sub : Bool) :
    ∃ s z h pv n c, (arith a b cin sub).2 = packFlags s z h pv n c := ⟨_, _, _, _, _, _, rfl⟩

end Sys2Proof.Machine
end

