-- ==== Sys2Proof/Laws/HostPorts.lean ====
section
/-! SUPPORT. The small lemmas of the run loop and of the sink. -/

namespace Sys2Proof.Machine

open Sys2Proof

theorem State.haltDetect_iff (s : State) : s.haltDetect = true ↔ s.readByte s.pc = 0x00 := by
  simp [State.haltDetect, Config.haltSentinel]

@[simp] theorem RunResult.after_halted (ev : Option DiagEvent) (s : State) (evs : List DiagEvent) :
    (RunResult.halted s evs).after ev = .halted s (ev.toList ++ evs) := rfl

@[simp] theorem RunResult.after_noEnd (ev : Option DiagEvent) (s : State) (evs : List DiagEvent) :
    (RunResult.noEnd s evs).after ev = .noEnd s (ev.toList ++ evs) := rfl

@[simp] theorem RunResult.after_refused (ev : Option DiagEvent) (r : Refusal) (evs : List DiagEvent) :
    (RunResult.refused r evs).after ev = .refused r (ev.toList ++ evs) := rfl

/-- On the sentinel the run loop returns, whatever the fuel. -/
theorem runUntilHalt_of_halt (fuel : Nat) {s : State} (h : s.haltDetect = true) : runUntilHalt fuel s = .halted s [] := by
  cases fuel <;> simp [runUntilHalt, h]

/-- Off the sentinel it takes one step, and the run goes on from there with that step's event before the later ones. -/
theorem runUntilHalt_step (fuel : Nat) {s t : State} (h : s.haltDetect = false) (hs : step s = .next t) :
    runUntilHalt (fuel + 1) s = (runUntilHalt fuel t).after (stepEvent s) := by
  simp [runUntilHalt, h, hs]

@[simp] theorem deliver_nil {κ : Type} (diagSink : DiagSink DiagEvent κ) (k : κ) : deliver diagSink k [] = k := rfl

@[simp] theorem deliver_cons {κ : Type} (diagSink : DiagSink DiagEvent κ) (k : κ) (ev : DiagEvent) (evs : List DiagEvent) :
    deliver diagSink k (ev :: evs) = deliver diagSink (diagSink k ev) evs := rfl

end Sys2Proof.Machine
end

