-- ==== Sys2Proof/Laws/Memory.lean ====
section
/-! SUPPORT. Memory: read after write, and that every memory operation keeps the canonical form. -/

namespace Sys2Proof.Machine

open Sys2Proof

theorem Memory.get_erase (m : Memory) (k j : Nat) :
    Memory.get (Memory.erase m k) j = if j = k then Memory.unlisted else Memory.get m j := by
  induction m with
  | nil => simp [Memory.erase, Memory.get]
  | cons x m ih =>
    by_cases hx : x.1 = k
    · by_cases hj : j = k
      · rw [Memory.erase, if_pos hx, ih]
        simp [hj]
      · rw [Memory.erase, if_pos hx, ih, Memory.get, if_neg (by omega : ¬ x.1 = j)]
    · by_cases hj : x.1 = j
      · have : ¬ j = k := by omega
        rw [Memory.erase, if_neg hx, Memory.get, if_pos hj, if_neg this, Memory.get, if_pos hj]
      · rw [Memory.erase, if_neg hx, Memory.get, if_neg hj, ih, Memory.get, if_neg hj]

/-- An insert is read back, where the key was not listed. -/
theorem Memory.get_insert (m : Memory) (k j : Nat) (v : Byte) (h : ∀ x ∈ m, x.1 ≠ k) :
    Memory.get (Memory.insert m k v) j = if j = k then v else Memory.get m j := by
  induction m with
  | nil => simp [Memory.insert, Memory.get, eq_comm]
  | cons x m ih =>
    have hx : x.1 ≠ k := h x (by simp)
    have ih := ih fun y hy => h y (by simp [hy])
    by_cases hlt : x.1 < k
    · by_cases hj : x.1 = j
      · have : ¬ j = k := by omega
        rw [Memory.insert, if_pos hlt, Memory.get, if_pos hj, if_neg this, Memory.get, if_pos hj]
      · rw [Memory.insert, if_pos hlt, Memory.get, if_neg hj, ih, Memory.get, if_neg hj]
    · by_cases hj : j = k
      · simp [Memory.insert, Memory.get, hlt, hj]
      · simp [Memory.insert, Memory.get, hlt, hj, Ne.symm hj]

theorem Memory.key_ne_of_mem_erase {m : Memory} {k : Nat} {x : Host.Cell} (h : x ∈ Memory.erase m k) : x.1 ≠ k := by
  induction m with
  | nil => simp [Memory.erase] at h
  | cons y m ih =>
    by_cases hy : y.1 = k
    · rw [Memory.erase, if_pos hy] at h
      exact ih h
    · rw [Memory.erase, if_neg hy, List.mem_cons] at h
      rcases h with rfl | h
      · exact hy
      · exact ih h

/-- A byte put is read back, and every other key reads as before, whatever the list. -/
theorem Memory.get_put (m : Memory) (k j : Nat) (v : Byte) :
    Memory.get (Memory.put m k v) j = if j = k then v else Memory.get m j := by
  unfold Memory.put
  by_cases hv : v = Memory.unlisted
  · rw [if_pos hv, Memory.get_erase, hv]
  · rw [if_neg hv, Memory.get_insert _ _ _ _ fun x hx => Memory.key_ne_of_mem_erase hx, Memory.get_erase]
    by_cases hj : j = k <;> simp [hj]

@[simp] theorem Memory.read_write (m : Memory) (addr k : Word) (v : Byte) :
    (m.write addr v).read k = if k = addr then v else m.read k := by
  simp only [Memory.read, Memory.write, Memory.get_put, BitVec.toNat_inj]

@[simp] theorem State.readByte_writeByte (s : State) (addr k : Word) (v : Byte) :
    (s.writeByte addr v).readByte k = if k = addr then v else s.readByte k := by
  simp [State.readByte]

/-! ### The canonical form -/

theorem Memory.mem_erase {m : Memory} {k : Nat} {x : Host.Cell} (h : x ∈ Memory.erase m k) : x ∈ m := by
  induction m with
  | nil => simp [Memory.erase] at h
  | cons y m ih =>
    by_cases hy : y.1 = k
    · rw [Memory.erase, if_pos hy] at h
      exact List.mem_cons_of_mem _ (ih h)
    · rw [Memory.erase, if_neg hy, List.mem_cons] at h
      rcases h with rfl | h
      · simp
      · exact List.mem_cons_of_mem _ (ih h)

theorem Memory.wf_erase {m : Memory} (h : m.wf) (k : Nat) : Memory.wf (Memory.erase m k) := by
  refine ⟨?_, fun x hx => h.2 x (Memory.mem_erase hx)⟩
  have hp := h.1
  clear h
  induction m with
  | nil => exact .nil
  | cons y m ih =>
    rw [List.pairwise_cons] at hp
    by_cases hy : y.1 = k
    · rw [Memory.erase, if_pos hy]
      exact ih hp.2
    · rw [Memory.erase, if_neg hy, List.pairwise_cons]
      exact ⟨fun x hx => hp.1 x (Memory.mem_erase hx), ih hp.2⟩

theorem Memory.mem_insert {m : Memory} {k : Nat} {v : Byte} {x : Host.Cell} (h : x ∈ Memory.insert m k v) :
    x = (k, v) ∨ x ∈ m := by
  induction m with
  | nil => simpa [Memory.insert] using h
  | cons y m ih =>
    by_cases hy : y.1 < k
    · rw [Memory.insert, if_pos hy, List.mem_cons] at h
      rcases h with rfl | h
      · simp
      · rcases ih h with h | h
        · exact .inl h
        · exact .inr (List.mem_cons_of_mem _ h)
    · rw [Memory.insert, if_neg hy, List.mem_cons] at h
      exact h

theorem Memory.wf_insert {m : Memory} {k : Nat} {v : Byte} (h : m.wf) (hk : ∀ x ∈ m, x.1 ≠ k) (hv : v ≠ Memory.unlisted)
    (hlt : k < Config.memSize) : Memory.wf (Memory.insert m k v) := by
  constructor
  · have hp := h.1
    clear h
    induction m with
    | nil => exact List.pairwise_singleton _ _
    | cons y m ih =>
      rw [List.pairwise_cons] at hp
      have hne : y.1 ≠ k := hk y (by simp)
      by_cases hy : y.1 < k
      · rw [Memory.insert, if_pos hy, List.pairwise_cons]
        refine ⟨fun x hx => ?_, ih (fun x hx => hk x (by simp [hx])) hp.2⟩
        rcases Memory.mem_insert hx with rfl | hx
        · exact hy
        · exact hp.1 x hx
      · have hlt' : k < y.1 := by omega
        rw [Memory.insert, if_neg hy, List.pairwise_cons, List.pairwise_cons]
        refine ⟨fun x hx => ?_, hp⟩
        rcases List.mem_cons.mp hx with rfl | hx
        · exact hlt'
        · exact lt_trans hlt' (hp.1 x hx)
  · intro x hx
    rcases Memory.mem_insert hx with rfl | hx
    · exact ⟨hv, hlt⟩
    · exact h.2 x hx

/-- Every write keeps the canonical form. -/
theorem Memory.wf_write {m : Memory} (h : m.wf) (addr : Word) (v : Byte) : Memory.wf (m.write addr v) := by
  unfold Memory.write Memory.put
  by_cases hv : v = Memory.unlisted
  · rw [if_pos hv]
    exact Memory.wf_erase h _
  · rw [if_neg hv]
    exact Memory.wf_insert (Memory.wf_erase h _) (fun x hx => Memory.key_ne_of_mem_erase hx) hv addr.isLt

/-- Writing a list of bytes keeps the canonical form. -/
theorem Memory.wf_writeList {m : Memory} (h : m.wf) (addr : Word) (vs : List Byte) : Memory.wf (m.writeList addr vs) := by
  induction vs generalizing m addr with
  | nil => exact h
  | cons v vs ih => exact ih (Memory.wf_write h addr v) _

theorem State.reset_mem_wf : Memory.wf State.reset.mem := ⟨.nil, by simp [State.reset]⟩

end Sys2Proof.Machine
end

