-- ==== Sys2Proof/Laws/Ops.lean ====
section
/-! SUPPORT. One lemma per shared operation of the machine: everything it can do. -/

namespace Sys2Proof.Machine

open Sys2Proof

@[simp] theorem sext16_eq (v : Byte) : sext16 v = v.signExtend 16 := rfl

@[simp] theorem Place.resolve_reg (s : State) (r : Reg8) : (Place.reg r).resolve s = .reg r := rfl

@[simp] theorem Place.resolve_indirect (s : State) (p : Pair) : (Place.indirect p).resolve s = .mem (s.pair p) := rfl

@[simp] theorem Place.resolve_indexed (s : State) (x : Idx) (d : Byte) :
    (Place.indexed x d).resolve s = .mem (s.idx x + d.signExtend 16) := rfl

@[simp] theorem Place.resolve_direct (s : State) (nn : Word) : (Place.direct nn).resolve s = .mem nn := rfl

@[simp] theorem State.readTarget_reg (s : State) (r : Reg8) : s.readTarget (.reg r) = s.reg8 r := rfl

@[simp] theorem State.readTarget_mem (s : State) (addr : Word) : s.readTarget (.mem addr) = s.readByte addr := rfl

@[simp] theorem State.writeTarget_reg (s : State) (r : Reg8) (v : Byte) : s.writeTarget (.reg r) v = s.setReg8 r v := rfl

@[simp] theorem State.writeTarget_mem (s : State) (addr : Word) (v : Byte) :
    s.writeTarget (.mem addr) v = s.writeByte addr v := rfl

@[simp] theorem State.readOperand_imm8 (s : State) (n : Byte) : s.readOperand (.imm8 n) = n := rfl

@[simp] theorem State.readOperand_place (s : State) (p : Place) : s.readOperand (.place p) = s.readTarget (p.resolve s) := rfl

/-- A load into a register writes that register with the operand's value. -/
@[simp] theorem State.load8_reg (s : State) (r : Reg8) (src : Operand) :
    s.load8 (.reg r) src = s.setReg8 r (s.readOperand src) := rfl

/-- A load into memory writes one byte with the operand's value. -/
theorem State.load8_mem (s : State) (p : Place) (src : Operand) (addr : Word) (h : p.resolve s = .mem addr) :
    s.load8 p src = s.writeByte addr (s.readOperand src) := by
  simp [State.load8, h]

/-- INC or DEC of a register. -/
theorem State.incDec_reg (s : State) (r : Reg8) (sub : Bool) :
    s.incDec (.reg r) sub =
      (s.setReg8 r (arith (s.reg8 r) 1 false sub).1).setF (arith (s.reg8 r) 1 false sub).2 := rfl

/-- INC or DEC of a byte of memory. -/
theorem State.incDec_mem (s : State) (p : Place) (sub : Bool) (addr : Word) (h : p.resolve s = .mem addr) :
    s.incDec p sub =
      (s.writeByte addr (arith (s.readByte addr) 1 false sub).1).setF (arith (s.readByte addr) 1 false sub).2 := by
  simp [State.incDec, h]

/-- Under the spec's value of UNKNOWN_POLICY a report emits its event and goes on. -/
@[simp] theorem reportUnknown_spec (table : TableId) (byte : Byte) (s : State) :
    reportUnknown Config.unknownPolicy table byte s = .next (s.emit ⟨table, byte⟩) := rfl

/-- A step is one of two things: a decoded instruction run with PC past it, or the report of an unknown primary opcode. -/
theorem step_cases (s : State) :
    (∃ i, decode s.fetchWindow = .instr i ∧ step s = exec i (s.advance i.length)) ∨
      (∃ o, decode s.fetchWindow = .unknown o ∧ step s = .next ((s.advance 1).emit ⟨.primary, o⟩)) := by
  unfold step
  cases h : decode s.fetchWindow with
  | instr i => exact .inl ⟨i, rfl, rfl⟩
  | unknown o => exact .inr ⟨o, rfl, rfl⟩

end Sys2Proof.Machine
end

