-- ==== Sys2Proof/Laws/PerInstr.lean ====
section
/-! SUPPORT. Per-instruction lemmas. Family Encoding: an instruction's encoding has the length its format gives (R76, R81), which
is 1 to 4 bytes (R70). -/

namespace Sys2Proof.Laws.Encoding

open Sys2Proof

/-- The encoding has the instruction's length, 1 to 4 bytes. -/
def Statement (i : Instr) : Prop := (encode i).length = i.length ∧ 1 ≤ i.length ∧ i.length ≤ 4

theorem ldRR (dst src : Reg8) : Statement (.ldRR dst src) := ⟨rfl, Instr.length_bounds _⟩

theorem ldRHl (r : Reg8) : Statement (.ldRHl r) := ⟨rfl, Instr.length_bounds _⟩

theorem ldHlR (r : Reg8) : Statement (.ldHlR r) := ⟨rfl, Instr.length_bounds _⟩

theorem ldRN (r : Reg8) (n : Byte) : Statement (.ldRN r n) := ⟨rfl, Instr.length_bounds _⟩

theorem ldHlN (n : Byte) : Statement (.ldHlN n) := ⟨rfl, Instr.length_bounds _⟩

theorem ldABc : Statement (.ldABc) := ⟨rfl, Instr.length_bounds _⟩

theorem ldADe : Statement (.ldADe) := ⟨rfl, Instr.length_bounds _⟩

theorem ldBcA : Statement (.ldBcA) := ⟨rfl, Instr.length_bounds _⟩

theorem ldDeA : Statement (.ldDeA) := ⟨rfl, Instr.length_bounds _⟩

theorem ldADir (nn : Word) : Statement (.ldADir nn) := ⟨rfl, Instr.length_bounds _⟩

theorem ldDirA (nn : Word) : Statement (.ldDirA nn) := ⟨rfl, Instr.length_bounds _⟩

theorem ldDdNn (dd : Dest16) (nn : Word) : Statement (.ldDdNn dd nn) := ⟨rfl, Instr.length_bounds _⟩

theorem ldRXd (x : Idx) (r : Reg8) (d : Byte) : Statement (.ldRXd x r d) := ⟨rfl, Instr.length_bounds _⟩

theorem ldXdR (x : Idx) (r : Reg8) (d : Byte) : Statement (.ldXdR x r d) := ⟨rfl, Instr.length_bounds _⟩

theorem ldXdN (x : Idx) (d n : Byte) : Statement (.ldXdN x d n) := ⟨rfl, Instr.length_bounds _⟩

theorem ldXNn (x : Idx) (nn : Word) : Statement (.ldXNn x nn) := ⟨rfl, Instr.length_bounds _⟩

theorem ldXDir (x : Idx) (nn : Word) : Statement (.ldXDir x nn) := ⟨rfl, Instr.length_bounds _⟩

theorem ldRNPrefixed (x : Idx) (r : Reg8) (n : Byte) : Statement (.ldRNPrefixed x r n) := ⟨rfl, Instr.length_bounds _⟩

theorem addR (r : Reg8) : Statement (.addR r) := ⟨rfl, Instr.length_bounds _⟩

theorem adcR (r : Reg8) : Statement (.adcR r) := ⟨rfl, Instr.length_bounds _⟩

theorem subR (r : Reg8) : Statement (.subR r) := ⟨rfl, Instr.length_bounds _⟩

theorem sbcR (r : Reg8) : Statement (.sbcR r) := ⟨rfl, Instr.length_bounds _⟩

theorem andR (r : Reg8) : Statement (.andR r) := ⟨rfl, Instr.length_bounds _⟩

theorem xorR (r : Reg8) : Statement (.xorR r) := ⟨rfl, Instr.length_bounds _⟩

theorem orR (r : Reg8) : Statement (.orR r) := ⟨rfl, Instr.length_bounds _⟩

theorem cpR (r : Reg8) : Statement (.cpR r) := ⟨rfl, Instr.length_bounds _⟩

theorem addHl : Statement (.addHl) := ⟨rfl, Instr.length_bounds _⟩

theorem adcHl : Statement (.adcHl) := ⟨rfl, Instr.length_bounds _⟩

theorem subHl : Statement (.subHl) := ⟨rfl, Instr.length_bounds _⟩

theorem sbcHl : Statement (.sbcHl) := ⟨rfl, Instr.length_bounds _⟩

theorem andHl : Statement (.andHl) := ⟨rfl, Instr.length_bounds _⟩

theorem xorHl : Statement (.xorHl) := ⟨rfl, Instr.length_bounds _⟩

theorem orHl : Statement (.orHl) := ⟨rfl, Instr.length_bounds _⟩

theorem cpHl : Statement (.cpHl) := ⟨rfl, Instr.length_bounds _⟩

theorem addN (n : Byte) : Statement (.addN n) := ⟨rfl, Instr.length_bounds _⟩

theorem adcN (n : Byte) : Statement (.adcN n) := ⟨rfl, Instr.length_bounds _⟩

theorem subN (n : Byte) : Statement (.subN n) := ⟨rfl, Instr.length_bounds _⟩

theorem sbcN (n : Byte) : Statement (.sbcN n) := ⟨rfl, Instr.length_bounds _⟩

theorem andN (n : Byte) : Statement (.andN n) := ⟨rfl, Instr.length_bounds _⟩

theorem xorN (n : Byte) : Statement (.xorN n) := ⟨rfl, Instr.length_bounds _⟩

theorem orN (n : Byte) : Statement (.orN n) := ⟨rfl, Instr.length_bounds _⟩

theorem cpN (n : Byte) : Statement (.cpN n) := ⟨rfl, Instr.length_bounds _⟩

theorem addXd (x : Idx) (d : Byte) : Statement (.addXd x d) := ⟨rfl, Instr.length_bounds _⟩

theorem adcXd (x : Idx) (d : Byte) : Statement (.adcXd x d) := ⟨rfl, Instr.length_bounds _⟩

theorem subXd (x : Idx) (d : Byte) : Statement (.subXd x d) := ⟨rfl, Instr.length_bounds _⟩

theorem sbcXd (x : Idx) (d : Byte) : Statement (.sbcXd x d) := ⟨rfl, Instr.length_bounds _⟩

theorem andXd (x : Idx) (d : Byte) : Statement (.andXd x d) := ⟨rfl, Instr.length_bounds _⟩

theorem xorXd (x : Idx) (d : Byte) : Statement (.xorXd x d) := ⟨rfl, Instr.length_bounds _⟩

theorem orXd (x : Idx) (d : Byte) : Statement (.orXd x d) := ⟨rfl, Instr.length_bounds _⟩

theorem cpXd (x : Idx) (d : Byte) : Statement (.cpXd x d) := ⟨rfl, Instr.length_bounds _⟩

theorem incR (r : Reg8) : Statement (.incR r) := ⟨rfl, Instr.length_bounds _⟩

theorem incHl : Statement (.incHl) := ⟨rfl, Instr.length_bounds _⟩

theorem incXd (x : Idx) (d : Byte) : Statement (.incXd x d) := ⟨rfl, Instr.length_bounds _⟩

theorem decR (r : Reg8) : Statement (.decR r) := ⟨rfl, Instr.length_bounds _⟩

theorem decHl : Statement (.decHl) := ⟨rfl, Instr.length_bounds _⟩

theorem decXd (x : Idx) (d : Byte) : Statement (.decXd x d) := ⟨rfl, Instr.length_bounds _⟩

theorem nop : Statement (.nop) := ⟨rfl, Instr.length_bounds _⟩

theorem jp (nn : Word) : Statement (.jp nn) := ⟨rfl, Instr.length_bounds _⟩

theorem jpCc (cc : Cond) (nn : Word) : Statement (.jpCc cc nn) := ⟨rfl, Instr.length_bounds _⟩

theorem jr (e : Byte) : Statement (.jr e) := ⟨rfl, Instr.length_bounds _⟩

theorem jrCc (cc : Cond) (e : Byte) : Statement (.jrCc cc e) := ⟨rfl, Instr.length_bounds _⟩

theorem djnz (e : Byte) : Statement (.djnz e) := ⟨rfl, Instr.length_bounds _⟩

theorem prefixDD (o : Byte) : Statement (.prefixDD o) := ⟨rfl, Instr.length_bounds _⟩

theorem prefixFD (o : Byte) : Statement (.prefixFD o) := ⟨rfl, Instr.length_bounds _⟩

end Sys2Proof.Laws.Encoding
end

