-- ==== Sys2Proof/Tests/Slice0.lean ====
section
/-! SUPPORT. The model's own tests. Words are written from the encodings of the spec's rules; step results are the vectors of
95_test_vectors.md, named in each comment, or hand calculation from the rule named. At the end, a witness for the hypotheses of each
obligation that has some. -/

namespace Sys2Proof.Tests

open Sys2Proof Sys2Proof.Machine

/-! ### WellFormed: an ill-formed term for each check, and the terms on the other side of the edge -/

/-- JR tests NZ, Z, NC and C only (R204). -/
theorem test_wf_jr_condition :
    [Cond.po, .pe, .p, .m].all (fun cc => !(Instr.jrCc cc 0).wf) ∧ [Cond.nz, .z, .nc, .c].all fun cc => (Instr.jrCc cc 0).wf := by
  decide

/-- LD r,n after an escape byte has no H and no L (R167). -/
theorem test_wf_prefixed_register :
    [Reg8.h, .l].all (fun r => !(Instr.ldRNPrefixed .ix r 0).wf) ∧
      [Reg8.b, .c, .d, .e, .a].all fun r => (Instr.ldRNPrefixed .iy r 0).wf := by
  decide

/-- A bare escape byte's second byte is no row of its table (R87). -/
theorem test_wf_escape_second_byte :
    (Instr.prefixDD 0x21).wf = false ∧ (Instr.prefixFD 0x86).wf = false ∧ (Instr.prefixDD 0x00).wf ∧ (Instr.prefixFD 0xDD).wf := by
  decide

/-! ### Decoding: words written bit by bit from the spec's encodings -/

/-- The decoder reads the instruction from each word, and the encoder gives the word back. -/
def reads (rows : List (List Byte × Instr)) : Bool :=
  rows.all fun row => decode row.1 == .instr row.2 && encode row.2 == row.1

/-- 01 ddd sss; 01 ddd 110; 01 110 sss; 00 ddd 110 n; 00 110 110 n (R150 to R154). -/
theorem test_decode_loads_reg :
    reads [([0b01_111_000], .ldRR .a .b), ([0b01_000_101], .ldRR .b .l), ([0b01_011_110], .ldRHl .e), ([0b01_110_100], .ldHlR .h),
      ([0b00_010_110, 0x7F], .ldRN .d 0x7F), ([0b00_110_110, 0x42], .ldHlN 0x42)] := by
  decide

/-- 0A, 1A, 02, 12; 3A nn, 32 nn, big-endian; 00 dd 0001 nn (R155 to R161). -/
theorem test_decode_loads_wide :
    reads [([0x0A], .ldABc), ([0x1A], .ldADe), ([0x02], .ldBcA), ([0x12], .ldDeA), ([0x3A, 0x12, 0x34], .ldADir 0x1234),
      ([0x32, 0xAB, 0xCD], .ldDirA 0xABCD), ([0b00_00_0001, 0x12, 0x34], .ldDdNn (.pair .bc) 0x1234),
      ([0b00_10_0001, 0x80, 0x01], .ldDdNn (.pair .hl) 0x8001), ([0b00_11_0001, 0xFF, 0xFE], .ldDdNn .sp 0xFFFE)] := by
  decide

/-- p 01 rrr 110 d; p 01 110 rrr d; p 36 d n; p 21 nn; p 2A nn; p 00 rrr 110 n (R162 to R167). -/
theorem test_decode_loads_indexed :
    reads [([0xDD, 0b01_111_110, 0x05], .ldRXd .ix .a 0x05), ([0xFD, 0b01_110_001, 0x80], .ldXdR .iy .c 0x80),
      ([0xDD, 0x36, 0x05, 0x06], .ldXdN .ix 0x05 0x06), ([0xFD, 0x21, 0x12, 0x34], .ldXNn .iy 0x1234),
      ([0xDD, 0x2A, 0x20, 0x00], .ldXDir .ix 0x2000), ([0xDD, 0b00_000_110, 0x04], .ldRNPrefixed .ix .b 0x04)] := by
  decide

/-- 10 aaa rrr, the `alu` field counting ADD, ADC, SUB, SBC, AND, XOR, OR, CP (R75, R180). -/
theorem test_decode_alu_reg :
    reads [([0b10_000_001], .addR .c), ([0b10_001_001], .adcR .c), ([0b10_010_111], .subR .a), ([0b10_011_000], .sbcR .b),
      ([0b10_100_010], .andR .d), ([0b10_101_111], .xorR .a), ([0b10_110_101], .orR .l), ([0b10_111_100], .cpR .h)] := by
  decide

/-- 10 aaa 110 (R180). -/
theorem test_decode_alu_hl :
    reads [([0b10_000_110], .addHl), ([0b10_001_110], .adcHl), ([0b10_010_110], .subHl), ([0b10_011_110], .sbcHl),
      ([0b10_100_110], .andHl), ([0b10_101_110], .xorHl), ([0b10_110_110], .orHl), ([0b10_111_110], .cpHl)] := by
  decide

/-- 11 aaa 110 n (R180). -/
theorem test_decode_alu_imm :
    reads [([0b11_000_110, 1], .addN 1), ([0b11_001_110, 2], .adcN 2), ([0b11_010_110, 3], .subN 3), ([0b11_011_110, 4], .sbcN 4),
      ([0b11_100_110, 5], .andN 5), ([0b11_101_110, 6], .xorN 6), ([0b11_110_110, 7], .orN 7), ([0b11_111_110, 8], .cpN 8)] := by
  decide

/-- p 10 aaa 110 d (R180). -/
theorem test_decode_alu_indexed :
    reads [([0xDD, 0b10_000_110, 1], .addXd .ix 1), ([0xFD, 0b10_001_110, 2], .adcXd .iy 2), ([0xDD, 0b10_010_110, 3], .subXd .ix 3),
      ([0xFD, 0b10_011_110, 4], .sbcXd .iy 4), ([0xDD, 0b10_100_110, 5], .andXd .ix 5), ([0xFD, 0b10_101_110, 6], .xorXd .iy 6),
      ([0xDD, 0b10_110_110, 7], .orXd .ix 7), ([0xFD, 0b10_111_110, 8], .cpXd .iy 8)] := by
  decide

/-- 00 rrr 100 and 00 rrr 101, with 110 for (HL); p 34 d and p 35 d (R189, R190). -/
theorem test_decode_inc_dec :
    reads [([0b00_111_100], .incR .a), ([0b00_110_100], .incHl), ([0xDD, 0x34, 0x04], .incXd .ix 0x04), ([0b00_010_101], .decR .d),
      ([0b00_110_101], .decHl), ([0xFD, 0x35, 0xFD], .decXd .iy 0xFD)] := by
  decide

/-- 00; C3 nn; 11 ccc 010 nn; 18 e; 001 cc 000 e; 10 e (R200 to R205); an escape byte before an unknown second byte (R87). -/
theorem test_decode_control :
    reads [([0x00], .nop), ([0xC3, 0x12, 0x34], .jp 0x1234), ([0b11_101_010, 0x40, 0x00], .jpCc .pe 0x4000), ([0x18, 0xFE], .jr 0xFE),
      ([0b001_10_000, 0xF0], .jrCc .nc 0xF0), ([0x10, 0xFD], .djnz 0xFD), ([0xDD, 0x26], .prefixDD 0x26),
      ([0xFD, 0xFD], .prefixFD 0xFD)] := by
  decide

/-- Unknown primary opcodes are rejected by name (R86, R89, R90). -/
theorem test_decode_unknown : [0x76, 0xCB, 0xED, 0xF4, 0xFF, 0x22].all fun o : Byte => decode [o] == .unknown o := by
  decide

/-- The host's numbering: the first byte of a row is the most significant (R96). -/
theorem test_table_word :
    decodeTableWord 8 0x3C = some (.incR .a) ∧ decodeTableWord 16 0xDD46 = some (.ldRXd .ix .b 0) ∧
      decodeTableWord 8 0xFD = some (.prefixFD 0) ∧ decodeTableWord 8 0x76 = none := by
  decide

/-- A table word placed at PC is what the next step runs: INC A from reset (R189). -/
theorem test_with_fetch_word :
    ∃ t, step (State.reset.withFetchWord 8 0x3C) = .next t ∧ t.a = 1 ∧ t.pc = 1 := ⟨_, rfl, rfl, rfl⟩

/-! ### One step -/

/-- The state with bytes at an address. -/
def poke (s : State) (addr : Word) (bytes : List Byte) : State := { s with mem := s.mem.writeList addr bytes }

/-- What a view shows of the state one step after `s`, whose instruction's bytes are placed at PC. -/
def stepView {α : Type} (s : State) (bytes : List Byte) (view : State → α) : Option α :=
  match step (poke s s.pc bytes) with
  | .next t => some (view t)
  | .fault _ => none
  | .refused _ => none

/-- A, F and PC after a two-operand ALU instruction with A = `a`, F = `f` and operand `v` in C, at (HL) = (IX-1) and at (IY+1). -/
def aluView (a v f : Byte) (bytes : List Byte) : Option (Byte × Byte × Word) :=
  stepView (poke { State.reset with a := a, c := v, f := f, h := 0x40, ix := 0x4001, iy := 0x3FFF } 0x4000 [v]) bytes
    fun t => (t.a, t.f, t.pc)

/-- The four forms r, (HL), n, (X+d) all give A and F, with PC past the form's bytes. -/
def aluForms (a v f : Byte) (bytes : List (List Byte)) (a' f' : Byte) : Bool :=
  bytes.map (aluView a v f) == bytes.map fun b => some (a', f', BitVec.ofNat 16 b.length)

/-- Vectors A4 (80 + 80) and A7 (90 + 70), in the four forms. -/
theorem test_add :
    aluForms 0x80 0x80 0 [[0x81], [0x86], [0xC6, 0x80], [0xDD, 0x86, 0xFF]] 0x00 0x45 ∧
      aluForms 0x90 0x70 0 [[0x81], [0x86], [0xC6, 0x70], [0xFD, 0x86, 0x01]] 0x00 0x41 := by decide

/-- Vectors A12 (80 + 80 + 1) and A10 (0E + 01 + 1). -/
theorem test_adc :
    aluForms 0x80 0x80 1 [[0x89], [0x8E], [0xCE, 0x80], [0xDD, 0x8E, 0xFF]] 0x01 0x05 ∧
      aluForms 0x0E 0x01 1 [[0x89], [0x8E], [0xCE, 0x01], [0xFD, 0x8E, 0x01]] 0x10 0x10 := by decide

/-- Vectors A17 (7F - FF) and A18 (01 - 01 with C set). -/
theorem test_sub :
    aluForms 0x7F 0xFF 0 [[0x91], [0x96], [0xD6, 0xFF], [0xDD, 0x96, 0xFF]] 0x80 0x87 ∧
      aluForms 0x01 0x01 1 [[0x91], [0x96], [0xD6, 0x01], [0xFD, 0x96, 0x01]] 0x00 0x42 := by decide

/-- Vectors A20 (80 - 7F - 1) and A19 (00 - 00 - 1). -/
theorem test_sbc :
    aluForms 0x80 0x7F 1 [[0x99], [0x9E], [0xDE, 0x7F], [0xDD, 0x9E, 0xFF]] 0x00 0x56 ∧
      aluForms 0x00 0x00 1 [[0x99], [0x9E], [0xDE, 0x00], [0xFD, 0x9E, 0x01]] 0xFF 0x93 := by decide

/-- Vectors A24 (FF and 81) and A25 (3C and 0F with C set): H is cleared. -/
theorem test_and :
    aluForms 0xFF 0x81 0 [[0xA1], [0xA6], [0xE6, 0x81], [0xDD, 0xA6, 0xFF]] 0x81 0x84 ∧
      aluForms 0x3C 0x0F 1 [[0xA1], [0xA6], [0xE6, 0x0F], [0xFD, 0xA6, 0x01]] 0x0C 0x04 := by decide

/-- Vectors A27 (FF xor 01) and M9 (F0 xor 0F with C set). -/
theorem test_xor :
    aluForms 0xFF 0x01 0 [[0xA9], [0xAE], [0xEE, 0x01], [0xDD, 0xAE, 0xFF]] 0xFE 0x80 ∧
      aluForms 0xF0 0x0F 1 [[0xA9], [0xAE], [0xEE, 0x0F], [0xFD, 0xAE, 0x01]] 0xFF 0x84 := by decide

/-- Vectors A29 (00 or 01 with C set) and A30 (00 or 03). -/
theorem test_or :
    aluForms 0x00 0x01 1 [[0xB1], [0xB6], [0xF6, 0x01], [0xDD, 0xB6, 0xFF]] 0x01 0x00 ∧
      aluForms 0x00 0x03 0 [[0xB1], [0xB6], [0xF6, 0x03], [0xFD, 0xB6, 0x01]] 0x03 0x04 := by decide

/-- Vectors A33 (05 against 06) and A34 (80 against 01 with C set): A stays. -/
theorem test_cp :
    aluForms 0x05 0x06 0 [[0xB9], [0xBE], [0xFE, 0x06], [0xDD, 0xBE, 0xFF]] 0x05 0x93 ∧
      aluForms 0x80 0x01 1 [[0xB9], [0xBE], [0xFE, 0x01], [0xFD, 0xBE, 0x01]] 0x80 0x16 := by decide

/-- Vectors A37 (INC A of FF writes C) and A38 (INC B of 7F). -/
theorem test_inc_reg :
    stepView { State.reset with a := 0xFF } [0x3C] (fun t => (t.a, t.f)) = some (0x00, 0x51) ∧
      stepView { State.reset with b := 0x7F, f := 1 } [0x04] (fun t => (t.b, t.f)) = some (0x80, 0x94) := by decide

/-- Vectors A41 (DEC A of 00) and A43 (DEC D of 01 with C set). -/
theorem test_dec_reg :
    stepView State.reset [0x3D] (fun t => (t.a, t.f)) = some (0xFF, 0x93) ∧
      stepView { State.reset with d := 0x01, f := 1 } [0x15] (fun t => (t.d, t.f)) = some (0x00, 0x42) := by decide

/-- Vectors A46 and A47: INC (HL) of FF and DEC (HL) of 00. -/
theorem test_inc_dec_hl :
    stepView (poke { State.reset with h := 0x40 } 0x4000 [0xFF]) [0x34] (fun t => (t.readByte 0x4000, t.f)) = some (0x00, 0x51) ∧
      stepView { State.reset with h := 0x40 } [0x35] (fun t => (t.readByte 0x4000, t.f)) = some (0xFF, 0x93) := by decide

/-- Vectors M7 and M8: INC (IX+4) of 7F and DEC (IY-3) of 01. -/
theorem test_inc_dec_indexed :
    stepView (poke { State.reset with ix := 0x2000 } 0x2004 [0x7F]) [0xDD, 0x34, 0x04] (fun t => (t.readByte 0x2004, t.f)) =
        some (0x80, 0x94) ∧
      stepView (poke { State.reset with iy := 0x2003, f := 1 } 0x2000 [0x01]) [0xFD, 0x35, 0xFD]
        (fun t => (t.readByte 0x2000, t.f)) = some (0x00, 0x42) := by decide

/-- Vectors L1 and L3: LD B,C keeps F; LD L,H. -/
theorem test_ld_r_r :
    stepView { State.reset with c := 0x5A, f := 0x93 } [0x41] (fun t => (t.b, t.f)) = some (0x5A, 0x93) ∧
      stepView { State.reset with h := 0x12, l := 0x34 } [0x6C] (fun t => (t.h, t.l)) = some (0x12, 0x12) := by decide

/-- Vectors L5 (LD H,(HL) uses the old HL) and L6 (LD (HL),A). -/
theorem test_ld_r_hl :
    stepView (poke { State.reset with h := 0x40, l := 0x10 } 0x4010 [0x77]) [0x66] (fun t => (t.h, t.l)) = some (0x77, 0x10) ∧
      stepView { State.reset with a := 0x99, h := 0x80 } [0x77] (fun t => t.readByte 0x8000) = some 0x99 := by decide

/-- LD D,n (R153) and vector L9, LD (HL),n. -/
theorem test_ld_imm :
    stepView State.reset [0x16, 0x7F] (fun t => (t.d, t.pc)) = some (0x7F, 2) ∧
      stepView { State.reset with h := 0x30 } [0x36, 0x42] (fun t => t.readByte 0x3000) = some 0x42 := by decide

/-- Vectors L10, L11, L12, L13: A through (BC) and (DE). -/
theorem test_ld_a_bc_de :
    stepView (poke { State.reset with b := 0x12, c := 0x34 } 0x1234 [0x56]) [0x0A] (·.a) = some 0x56 ∧
      stepView (poke { State.reset with d := 0xFF, e := 0xFF } 0xFFFF [0x01]) [0x1A] (·.a) = some 0x01 ∧
      stepView { State.reset with a := 0x7E, b := 0x20 } [0x02] (·.readByte 0x2000) = some 0x7E ∧
      stepView { State.reset with a := 0x81, e := 0x05 } [0x12] (·.readByte 0x0005) = some 0x81 := by decide

/-- Vectors L14 and L15: the address is big-endian. -/
theorem test_ld_a_direct :
    stepView (poke (poke State.reset 0x1234 [0xEE]) 0x3412 [0x11]) [0x3A, 0x12, 0x34] (·.a) = some 0xEE ∧
      stepView { State.reset with a := 0x5C } [0x32, 0xAB, 0xCD] (·.readByte 0xABCD) = some 0x5C := by decide

/-- Vectors L16, L18 and L19: LD BC,nn, LD HL,nn and LD SP,nn. -/
theorem test_ld_dd_nn :
    stepView State.reset [0x01, 0x12, 0x34] (fun t => (t.b, t.c)) = some (0x12, 0x34) ∧
      stepView State.reset [0x21, 0x80, 0x01] (fun t => (t.h, t.l)) = some (0x80, 0x01) ∧
      stepView State.reset [0x31, 0xFF, 0xFE] (·.sp) = some 0xFFFE := by decide

/-- Vectors L21 and M1: LD B,(IY-1), and an address that wraps to 0, the instruction standing at 0x0100. -/
theorem test_ld_r_indexed :
    stepView (poke { State.reset with iy := 0x2000 } 0x1FFF [0x9A]) [0xFD, 0x46, 0xFF] (·.b) = some 0x9A ∧
      stepView (poke { State.reset with ix := 0xFFFF, pc := 0x0100 } 0 [0x3E]) [0xDD, 0x7E, 0x01] (·.a) = some 0x3E := by decide

/-- Vectors L24 (LD (IY-128),A) and M13 (LD (IX+5),6: d before n). -/
theorem test_ld_indexed :
    stepView { State.reset with iy := 0x1000, a := 0xAA } [0xFD, 0x77, 0x80] (·.readByte 0x0F80) = some 0xAA ∧
      stepView { State.reset with ix := 0x1000 } [0xDD, 0x36, 0x05, 0x06] (fun t => (t.readByte 0x1005, t.readByte 0x1006)) =
        some (0x06, 0x00) := by decide

/-- Vectors L27, L30 (the datum wraps from 0xFFFF to 0x0000) and L31. -/
theorem test_ld_idx :
    stepView State.reset [0xDD, 0x21, 0x12, 0x34] (fun t => (t.ix, t.iy)) = some (0x1234, 0) ∧
      stepView (poke { State.reset with pc := 0x0100 } 0xFFFF [0x12, 0x34]) [0xFD, 0x2A, 0xFF, 0xFF] (fun t => (t.iy, t.pc)) =
        some (0x1234, 0x0104) ∧
      stepView { State.reset with f := 0x93 } [0xDD, 0x06, 0x04] (fun t => (t.b, t.f, t.pc)) = some (0x04, 0x93, 3) := by decide

/-- Vectors K1 to K3: NOP, JP nn, JP to itself. -/
theorem test_nop_jp :
    stepView { State.reset with pc := 0x0200, f := 0x93 } [0x00] (fun t => (t.pc, t.f)) = some (0x0201, 0x93) ∧
      stepView State.reset [0xC3, 0x12, 0x34] (·.pc) = some 0x1234 ∧ stepView State.reset [0xC3, 0x00, 0x00] (·.pc) = some 0 := by
  decide

/-- PC after a conditional jump at 0x0100 with F = `f`. -/
def condView (f : Byte) (bytes : List Byte) : Option Word := stepView { State.reset with pc := 0x0100, f := f } bytes (·.pc)

/-- Vectors K4 to K19: each condition of JP, with F clear and with its one flag set. -/
theorem test_jp_cc :
    [0xC2, 0xD2, 0xE2, 0xF2].map (fun o => condView 0 [o, 0x40, 0x00]) = List.replicate 4 (some 0x4000) ∧
      [0xCA, 0xDA, 0xEA, 0xFA].map (fun o => condView 0 [o, 0x40, 0x00]) = List.replicate 4 (some 0x0103) ∧
      [(0x40, 0xC2), (0x01, 0xD2), (0x04, 0xE2), (0x80, 0xF2)].map (fun q => condView q.1 [q.2, 0x40, 0x00]) =
        List.replicate 4 (some 0x0103) ∧
      [(0x40, 0xCA), (0x01, 0xDA), (0x04, 0xEA), (0x80, 0xFA)].map (fun q => condView q.1 [q.2, 0x40, 0x00]) =
        List.replicate 4 (some 0x4000) := by decide

/-- Vectors K21, K22, K24 and K25: the ends of the displacement's range, and a target that wraps below 0 and above 0xFFFF. -/
theorem test_jr :
    condView 0 [0x18, 0x80] = some 0x0082 ∧ condView 0 [0x18, 0x7F] = some 0x0181 ∧
      stepView State.reset [0x18, 0xFD] (·.pc) = some 0xFFFF ∧
      stepView { State.reset with pc := 0xFFF0 } [0x18, 0x10] (·.pc) = some 0x0002 := by decide

/-- Vectors K26 to K33. -/
theorem test_jr_cc :
    [(0x00, 0x20), (0x40, 0x28), (0x00, 0x30), (0x01, 0x38)].map (fun q => condView q.1 [q.2, 0xF0]) =
        List.replicate 4 (some 0x00F2) ∧
      [(0x40, 0x20), (0x00, 0x28), (0x01, 0x30), (0x00, 0x38)].map (fun q => condView q.1 [q.2, 0xF0]) =
        List.replicate 4 (some 0x0102) := by decide

/-- Vectors K34 to K36. -/
theorem test_djnz :
    [0x02, 0x01, 0x00].map (fun b => stepView { State.reset with pc := 0x0100, b := b, f := 0x93 } [0x10, 0xFE]
        fun t => (t.b, t.pc, t.f)) =
      [some (0x01, 0x0100, 0x93), some (0x00, 0x0102, 0x93), some (0xFF, 0x0100, 0x93)] := by decide

/-- Vectors U1, U6, U8 and U9: an unknown opcode moves PC and emits its event. -/
theorem test_unknown :
    stepView State.reset [0xF4] (fun t => (t.pc, t.events)) = some (1, [⟨.primary, 0xF4⟩]) ∧
      stepView { State.reset with pc := 0xFFFF } [0xFF] (fun t => (t.pc, t.events)) = some (0, [⟨.primary, 0xFF⟩]) ∧
      stepView State.reset [0xDD, 0xDD, 0x21, 0x12, 0x34] (fun t => (t.pc, t.events)) = some (2, [⟨.dd, 0xDD⟩]) ∧
      stepView State.reset [0xFD, 0x76] (fun t => (t.pc, t.events)) = some (2, [⟨.fd, 0x76⟩]) := by decide

/-- Vectors M10, M11 and U16: fetch wraps from 0xFFFF to 0x0000. -/
theorem test_fetch_wraps :
    stepView { State.reset with pc := 0xFFFF } [0x3E, 0x42] (fun t => (t.a, t.pc)) = some (0x42, 1) ∧
      stepView { State.reset with pc := 0xFFFE } [0x21, 0xAB, 0xCD] (fun t => (t.h, t.l, t.pc)) = some (0xAB, 0xCD, 1) ∧
      stepView { State.reset with pc := 0xFFFF } [0xDD, 0x21, 0x00, 0x10] (fun t => (t.ix, t.pc)) = some (0x0010, 3) := by decide

/-- W5: the image 3C 00 halts with A = 1, F = 0, PC on the sentinel. -/
theorem test_run_halts :
    (match boot [0x3C, 0x00] with
      | .next s => runUntilHalt 8 s
      | .fault r => nomatch r
      | .refused r => .refused r []) = .halted { State.reset with a := 1, pc := 1, mem := [(0, 0x3C)] } [] := by decide

/-- W8: JR -2 never ends. -/
theorem test_run_no_end :
    runUntilHalt 3 (poke State.reset 0 [0x18, 0xFE]) = .noEnd (poke State.reset 0 [0x18, 0xFE]) [] := by decide

/-- W7, begun after an earlier event: the run's list holds only its own (R247), and a sink that keeps what it gets receives it. -/
theorem test_run_own_events :
    (runUntilHalt 4 { poke State.reset 0 [0xF4] with events := [⟨.dd, 0x24⟩] }).emitted = [⟨.primary, 0xF4⟩] ∧
      (runInto (fun k ev => k ++ [ev]) [] 4 { poke State.reset 0 [0xF4] with events := [⟨.dd, 0x24⟩] }).2 = [⟨.primary, 0xF4⟩] := by
  decide

/-! ### Memory's canonical form -/

/-- Writing what an unlisted address reads as removes the entry. -/
theorem test_memory_erase : Memory.write [(3, 1), (7, 2)] 3 0 = [(7, 2)] := by decide

/-- Writes in either order give the same data, addresses rising. -/
theorem test_memory_order :
    Memory.write (Memory.write [] 0xFFFF 2) 0 1 = [(0, 1), (65535, 2)] ∧
      Memory.write (Memory.write [] 0 1) 0xFFFF 2 = [(0, 1), (65535, 2)] := by decide

/-! ### Witnesses: concrete values that meet the hypotheses of each obligation that has some -/

/-- A state with the bytes at 0xFFFF and 0x0000 on, PC at 0xFFFF: the instruction wraps. -/
def atTop (bytes : List Byte) : State := poke { State.reset with pc := 0xFFFF } 0xFFFF bytes

theorem witness_EncodeThenDecode :
    (Instr.jrCc .c 0x80).wf = true ∧ (Instr.ldRNPrefixed .iy .a 0xFF).wf = true ∧ (Instr.prefixDD 0x00).wf = true ∧
      (Instr.prefixFD 0xFF).wf = true ∧ (Instr.ldXdN .ix 0x80 0xFF).wf = true := by decide

theorem witness_DecodeThenEncode :
    decodeFour 0xDD 0x36 0x80 0xFF = .instr (.ldXdN .ix 0x80 0xFF) ∧ decodeFour 0x00 0xFF 0xFF 0xFF = .instr .nop ∧
      decodeFour 0xFD 0x37 0x00 0x00 = .instr (.prefixFD 0x37) := by decide

theorem witness_StepRunsDecodedInstruction :
    decode (atTop [0xDD, 0x21, 0x00, 0x10]).fetchWindow = .instr (.ldXNn .ix 0x0010) := by decide

theorem witness_StepRunsEncodedBytes :
    (Instr.ldXdN .iy 0x7F 0x80).wf = true ∧ (atTop (encode (.ldXdN .iy 0x7F 0x80))).holdsAtPc (encode (.ldXdN .iy 0x7F 0x80)) := by
  decide

theorem witness_UnknownOpcodeChangesOnlyPc_primary :
    unknownEvent ((atTop [0xFF]).readByte (atTop [0xFF]).pc) ((atTop [0xFF]).readByte ((atTop [0xFF]).pc + 1)) =
      some ⟨.primary, 0xFF⟩ := by decide

theorem witness_UnknownOpcodeChangesOnlyPc_dd :
    unknownEvent ((atTop [0xDD, 0x00]).readByte (atTop [0xDD, 0x00]).pc) ((atTop [0xDD, 0x00]).readByte ((atTop [0xDD, 0x00]).pc + 1)) =
      some ⟨.dd, 0x00⟩ := by decide

theorem witness_UnknownOpcodeChangesOnlyPc_fd :
    unknownEvent ((atTop [0xFD, 0xFF]).readByte (atTop [0xFD, 0xFF]).pc) ((atTop [0xFD, 0xFF]).readByte ((atTop [0xFD, 0xFF]).pc + 1)) =
      some ⟨.fd, 0xFF⟩ := by decide

/-- A state that meets the invariant and is about to store: memory and F change. -/
theorem witness_StepKeepsInv : (atTop [0x34]).Inv ∧ ∃ t, step (atTop [0x34]) = .next t ∧ t.mem ≠ (atTop [0x34]).mem := by
  refine ⟨by decide, _, rfl, by decide⟩

theorem witness_RegistersWrittenOnlyByTheirWriters :
    (∃ t, exec (.ldRR .a .b) State.reset = .next t) ∧ Reg8.b ∉ reg8Written (.ldRR .a .b) ∧ writesF (.ldRR .a .b) = false ∧
      idxWritten (.ldXNn .ix 1) ≠ some .iy ∧ idxWritten .nop ≠ some .ix ∧ writesSp (.ldDdNn (.pair .hl) 1) = false ∧
      assignsPc (.ldDdNn .sp 1) = false := ⟨⟨_, rfl⟩, by decide⟩

theorem witness_OtherStepsKeepF_instr :
    (∃ t, step (atTop [0x10, 0xFE]) = .next t) ∧
      ∀ i, decode (atTop [0x10, 0xFE]).fetchWindow = .instr i → writesF i = false := by
  have h : decode (atTop [0x10, 0xFE]).fetchWindow = .instr (.djnz 0xFE) := by decide
  refine ⟨⟨_, rfl⟩, fun i hi => ?_⟩
  rw [h] at hi
  cases hi
  rfl

theorem witness_OtherStepsKeepF_unknown :
    (∃ t, step (atTop [0xF4]) = .next t) ∧ ∀ i, decode (atTop [0xF4]).fetchWindow = .instr i → writesF i = false := by
  have h : decode (atTop [0xF4]).fetchWindow = .unknown 0xF4 := by decide
  refine ⟨⟨_, rfl⟩, fun i hi => ?_⟩
  rw [h] at hi
  cases hi

/-- ADC with the same C and all other bits of F different; ADD, which does not read C, with C different too. -/
theorem witness_FlagsAreFullyRecomputed :
    (writesF (.adcXd .ix 0x80) = true ∧ (readsCarry (.adcXd .ix 0x80) = true → flagC 0xFF = flagC ({ State.reset with f := 1 } : State).f)) ∧
      (writesF .addHl = true ∧ (readsCarry .addHl = true → flagC 0xFF = flagC State.reset.f)) := by decide

theorem witness_InstructionStoresOnlyItsByte :
    (∃ t, exec (.ldXdN .ix 0xFF 0x5A) State.reset = .next t) ∧
      storedByte State.reset (.ldXdN .ix 0xFF 0x5A) = some (0xFFFF, 0x5A) ∧
      (∃ t, exec (.cpHl) State.reset = .next t) ∧ storedByte State.reset .cpHl = none := ⟨⟨_, rfl⟩, by decide, ⟨_, rfl⟩, by decide⟩

/-- LD (HL),n stores at the address of the next opcode. -/
theorem witness_StoreIsSeenByNextFetch :
    decode (poke { State.reset with l := 2 } 0 [0x36, 0x3C]).fetchWindow = .instr (.ldHlN 0x3C) ∧
      storedByte ((poke { State.reset with l := 2 } 0 [0x36, 0x3C]).advance 2) (.ldHlN 0x3C) = some (2, 0x3C) ∧
      ∃ t, step (poke { State.reset with l := 2 } 0 [0x36, 0x3C]) = .next t ∧ t.pc = 2 :=
  ⟨by decide, by decide, _, rfl, by decide⟩

theorem witness_EqualReadsMeanEqualMemory :
    Memory.wf (Memory.write (Memory.write [] 0xFFFF 2) 0 1) ∧ Memory.wf (Memory.write (Memory.write [] 0 1) 0xFFFF 2) ∧
      ∀ a : Word, Memory.read (Memory.write (Memory.write [] 0xFFFF 2) 0 1) a = Memory.read (Memory.write (Memory.write [] 0 1) 0xFFFF 2) a :=
  ⟨by decide, by decide, fun _ => rfl⟩

theorem witness_LdPairImm : ∃ t, exec (.ldDdNn (.pair .hl) 0xFF00) State.reset = .next t ∧ t.pair .hl = 0xFF00 :=
  ⟨_, rfl, by decide⟩

theorem witness_SelfOperandIdentities :
    ({ State.reset with a := 0x80 } : State).a = 0x80 ∧ flagC ({ State.reset with f := 0x01 } : State).f = true := by decide

theorem witness_NopOnlyMovesPc : (atTop [0x00, 0x3C]).readByte (atTop [0x00, 0x3C]).pc = 0x00 := by decide

theorem witness_RelativeJumps : (atTop [0x18, 0xFE]).holdsAtPc [0x18, 0xFE] := by decide

/-- An image that fills memory, the last address inside it, and an image one byte longer. -/
theorem witness_ImageLoadWritesFromZero_full :
    (List.replicate 65536 (0x5A : Byte)).length ≤ 65536 ∧ (0xFFFF : Word).toNat < (List.replicate 65536 (0x5A : Byte)).length := by
  rw [List.length_replicate]
  decide

theorem witness_ImageLoadWritesFromZero_short :
    ([0x5A] : List Byte).length ≤ 65536 ∧ ¬ (1 : Word).toNat < ([0x5A] : List Byte).length := by decide

theorem witness_ImageLoadWritesFromZero_long : 65536 < (List.replicate 65537 (0x5A : Byte)).length := by
  rw [List.length_replicate]
  decide

theorem witness_StoppedStateStays : State.reset.readByte State.reset.pc = 0x00 := by decide

end Sys2Proof.Tests
end

section
/-! The state after reset: what its registers and its memory read (R36). -/

namespace Sys2Proof.Machine

open Sys2Proof

/-- Memory with no listed byte reads as the unlisted byte, which is 0, at every address. -/
@[simp] theorem Memory.read_nil (addr : Word) : Memory.read [] addr = 0 := rfl

@[simp] theorem State.reset_reg8 (r : Reg8) : State.reset.reg8 r = 0 := by cases r <;> rfl

@[simp] theorem State.reset_readByte (addr : Word) : State.reset.readByte addr = 0 := Memory.read_nil addr

theorem State.reset_inertZero : State.reset.InertZero := by simp [State.InertZero, State.reset]

/-- Settles O57: each register reads the value `State.reset` gives it, and its memory lists no byte. -/
theorem resetValues : Obligations.ResetValues := by
  unfold Obligations.ResetValues
  exact ⟨State.reset_reg8, rfl, State.reset_inertZero, rfl, rfl, rfl, rfl, State.reset_readByte⟩

end Sys2Proof.Machine
end

section
/-! The flag unit's read-back lemmas: each flag of `arith`'s F, and what the ALU and INC/DEC write to F whatever F was before. -/

namespace Sys2Proof.Machine

open Sys2Proof

/-! ### The arithmetic derivation (R132 to R138) -/

section
variable (a b : Byte) (cin sub : Bool)

@[simp] theorem arith_fst : (arith a b cin sub).1 = truncResult a b cin sub := rfl

@[simp] theorem flagC_arith : flagC (arith a b cin sub).2 = carryOut a b cin sub := flagC_packFlags ..

@[simp] theorem flagN_arith : flagN (arith a b cin sub).2 = sub := flagN_packFlags ..

@[simp] theorem flagPV_arith : flagPV (arith a b cin sub).2 = signedOverflow a b cin sub := flagPV_packFlags ..

@[simp] theorem flagH_arith : flagH (arith a b cin sub).2 = halfCarry a b cin sub := flagH_packFlags ..

@[simp] theorem flagZ_arith : flagZ (arith a b cin sub).2 = (truncResult a b cin sub == 0) := flagZ_packFlags ..

@[simp] theorem flagS_arith : flagS (arith a b cin sub).2 = (truncResult a b cin sub).msb := flagS_packFlags ..

theorem toNat_truncResult : ((truncResult a b cin sub).toNat : Int) = rawResult a b cin sub % 256 := by
  rw [truncResult, BitVec.toNat_ofInt]
  exact Int.toNat_of_nonneg (Int.emod_nonneg _ (by decide))

theorem carryOut_eq_true_iff :
    carryOut a b cin sub = true ↔ if sub then rawResult a b cin sub < 0 else rawResult a b cin sub > 0xFF := by
  cases sub <;> exact decide_eq_true_iff

end

/-- Settles O37: each flag is read back from the packed F byte, and the result and the carry are read off the raw result. -/
theorem arithmeticDerivation : Obligations.ArithmeticDerivation := by
  unfold Obligations.ArithmeticDerivation
  intro a b cin sub raw res f
  have hZ : flagZ f = true ↔ res = 0 := by simp [f, res]
  have hS : flagS f = res.getLsbD 7 := (flagS_arith ..).trans (BitVec.msb_eq_getLsbD_last _)
  have hC : flagC f = true ↔ if sub then raw < 0 else raw > 0xFF :=
    (Bool.eq_iff_iff.mp (flagC_arith ..)).trans (carryOut_eq_true_iff ..)
  exact ⟨toNat_truncResult .., hC, flagN_arith .., hZ, hS, packFlags_bit5 .., packFlags_bit3 ..⟩

/-! ### F is no operand: what reads of a state with another F give -/

@[simp] theorem State.pair_setF (s : State) (v : Byte) (p : Pair) : (s.setF v).pair p = s.pair p := by cases p <;> rfl

@[simp] theorem State.idx_setF (s : State) (v : Byte) (x : Idx) : (s.setF v).idx x = s.idx x := by cases x <;> rfl

@[simp] theorem Place.resolve_setF (s : State) (v : Byte) (p : Place) : p.resolve (s.setF v) = p.resolve s := by
  cases p <;> simp

@[simp] theorem State.readTarget_setF (s : State) (v : Byte) (t : Target) : (s.setF v).readTarget t = s.readTarget t := by
  cases t <;> simp

@[simp] theorem State.readOperand_setF (s : State) (v : Byte) (src : Operand) :
    (s.setF v).readOperand src = s.readOperand src := by
  cases src <;> simp

/-! ### What a flag-producing instruction writes to F (R139, R144) -/

@[simp] theorem State.incDec_f (s : State) (p : Place) (sub : Bool) :
    (s.incDec p sub).f = (arith (s.readTarget (p.resolve s)) 1 false sub).2 := rfl

theorem State.alu_f_bits (s : State) (op : AluOp) (src : Operand) :
    (s.alu op src).f.getLsbD 5 = false ∧ (s.alu op src).f.getLsbD 3 = false := by
  obtain ⟨_, _, _, _, _, _, hf⟩ := aluEval_flags_packed op s.a (s.readOperand src) (flagC s.f)
  rw [State.alu_f, hf]
  exact ⟨packFlags_bit5 .., packFlags_bit3 ..⟩

theorem State.incDec_f_bits (s : State) (p : Place) (sub : Bool) :
    (s.incDec p sub).f.getLsbD 5 = false ∧ (s.incDec p sub).f.getLsbD 3 = false :=
  ⟨packFlags_bit5 .., packFlags_bit3 ..⟩

/-- Only ADC and SBC use the carry-in (R146). -/
theorem aluEval_congr_carry {op : AluOp} {cin cin' : Bool} (a v : Byte) (h : op = .adc ∨ op = .sbc → cin = cin') :
    aluEval op a v cin = aluEval op a v cin' := by
  cases op with
  | adc => rw [h (.inl rfl)]
  | sbc => rw [h (.inr rfl)]
  | add | sub | and | xor | or | cp => rfl

theorem State.alu_f_setF {s : State} {g : Byte} {op : AluOp} (src : Operand)
    (h : op = .adc ∨ op = .sbc → flagC g = flagC s.f) : ((s.setF g).alu op src).f = (s.alu op src).f := by
  simp [aluEval_congr_carry _ _ h]

theorem State.incDec_f_setF (s : State) (g : Byte) (p : Place) (sub : Bool) :
    ((s.setF g).incDec p sub).f = (s.incDec p sub).f := by
  simp

/-- A flag-producing instruction is the two-operand ALU operation of a mnemonic, ADC or SBC only where `readsCarry` says so, or an
INC or DEC (R144). -/
theorem exec_of_writesF {i : Instr} (h : writesF i = true) :
    (∃ op src, (∀ s, exec i s = .next (s.alu op src)) ∧ (op = .adc ∨ op = .sbc → readsCarry i = true)) ∨
      (∃ p sub, ∀ s, exec i s = .next (s.incDec p sub)) := by
  cases i with
  | adcR | adcHl | adcN | adcXd | sbcR | sbcHl | sbcN | sbcXd => exact .inl ⟨_, _, fun _ => rfl, fun _ => rfl⟩
  | addR | addHl | addN | addXd | subR | subHl | subN | subXd | andR | andHl | andN | andXd | xorR | xorHl | xorN | xorXd
  | orR | orHl | orN | orXd | cpR | cpHl | cpN | cpXd => exact .inl ⟨_, _, fun _ => rfl, by simp⟩
  | incR | incHl | incXd | decR | decHl | decXd => exact .inr ⟨_, _, fun _ => rfl⟩
  | ldRR | ldRHl | ldHlR | ldRN | ldHlN | ldABc | ldADe | ldBcA | ldDeA | ldADir | ldDirA | ldDdNn | ldRXd | ldXdR | ldXdN
  | ldXNn | ldXDir | ldRNPrefixed | nop | jp | jpCc | jr | jrCc | djnz | prefixDD | prefixFD => cases h

/-- Settles O17: the F that the ALU or INC/DEC writes is a packed byte of values read elsewhere than in F, but for the carry-in. -/
theorem flagsAreFullyRecomputed : Obligations.FlagsAreFullyRecomputed := by
  unfold Obligations.FlagsAreFullyRecomputed
  intro i s g hw hcarry
  obtain ⟨op, src, hexec, hreads⟩ | ⟨p, sub, hexec⟩ := exec_of_writesF hw
  · obtain ⟨h5, h3⟩ := s.alu_f_bits op src
    exact ⟨_, _, hexec s, hexec (s.setF g), h5, h3, State.alu_f_setF src fun hop => hcarry (hreads hop)⟩
  · obtain ⟨h5, h3⟩ := s.incDec_f_bits p sub
    exact ⟨_, _, hexec s, hexec (s.setF g), h5, h3, s.incDec_f_setF g p sub⟩

end Sys2Proof.Machine
end

section
/-! The loads (42_loads.md): the two shared operations, a register written and a byte stored, each with its complete frame; then the
instructions, each by the operand its meaning gives to them. -/

namespace Sys2Proof.Machine

open Sys2Proof

/-! ### A register written, a byte stored: the value and everything that is kept (R168) -/

theorem State.keepsControl_setReg8 (s : State) (r : Reg8) (v : Byte) : KeepsControl s (s.setReg8 r v) := by
  simp [KeepsControl, KeepsWide, KeepsInert]

theorem State.keepsControl_writeByte (s : State) (addr : Word) (v : Byte) : KeepsControl s (s.writeByte addr v) := by
  simp [KeepsControl, KeepsWide, KeepsInert]

theorem State.loadsReg8_setReg8 (s : State) (r : Reg8) (v : Byte) : LoadsReg8 r v s (s.setReg8 r v) := by
  have hdst : (s.setReg8 r v).reg8 r = v := by simp
  have hothers : KeepsReg8Except [r] s (s.setReg8 r v) := fun q hq => by
    rw [State.reg8_setReg8, if_neg (List.ne_of_not_mem_cons hq)]
  exact ⟨hdst, hothers, s.keepsControl_setReg8 r v, s.readByte_setReg8 r v⟩

theorem State.storesOnly_writeByte (s : State) (addr : Word) (v : Byte) : StoresOnly addr v s (s.writeByte addr v) :=
  ⟨fun k => s.readByte_writeByte addr k v, fun q _ => s.reg8_writeByte addr v q, s.keepsControl_writeByte addr v⟩

/-- A load into a register gives it the operand's value, read in the old state, and changes nothing else. -/
theorem State.loadsReg8_load8 (s : State) (r : Reg8) (src : Operand) :
    LoadsReg8 r (s.readOperand src) s (s.load8 (.reg r) src) := by
  rw [State.load8_reg]
  exact s.loadsReg8_setReg8 r _

/-- A load into a place of memory stores the operand's value there and changes nothing else. -/
theorem State.storesOnly_load8 {s : State} {p : Place} {addr : Word} (src : Operand) (h : p.resolve s = .mem addr) :
    StoresOnly addr (s.readOperand src) s (s.load8 p src) := by
  rw [State.load8_mem s p src addr h]
  exact s.storesOnly_writeByte addr _

@[simp] theorem State.setReg8_reg8_self (s : State) (r : Reg8) : s.setReg8 r (s.reg8 r) = s := by cases r <;> rfl

/-- A pair reads back what was written to its two halves (R23, R24). -/
@[simp] theorem State.pair_setPair_same (s : State) (p : Pair) (w : Word) : (s.setPair p w).pair p = w := by
  cases p <;> exact joinBytes_hi_lo w

/-! ### Loads into a register -/

/-- Settles O22: the operand is the source register; where it is the destination too, the write puts back what was there. -/
theorem ldRegReg : Obligations.LdRegReg := by
  unfold Obligations.LdRegReg
  intro s dst src
  have hself : exec (.ldRR dst dst) s = .next s := congrArg Host.Outcome.next (s.setReg8_reg8_self dst)
  exact ⟨rfl, ⟨_, rfl, s.loadsReg8_load8 dst (.place (.reg src))⟩, hself⟩

/-- Settles O23: the operand is the byte at the old HL. -/
theorem ldRegFromHl : Obligations.LdRegFromHl := by
  unfold Obligations.LdRegFromHl
  exact fun s r => ⟨rfl, _, rfl, s.loadsReg8_load8 r (.place (.indirect .hl))⟩

/-- Settles O25: the operand is the immediate. -/
theorem ldRegImm : Obligations.LdRegImm := by
  unfold Obligations.LdRegImm
  exact fun s r n => ⟨rfl, _, rfl, s.loadsReg8_load8 r (.imm8 n)⟩

/-- Settles O27: the operand is the byte at BC or at DE. -/
theorem ldAccFromBcDe : Obligations.LdAccFromBcDe := by
  unfold Obligations.LdAccFromBcDe
  intro s
  exact ⟨⟨rfl, _, rfl, s.loadsReg8_load8 .a (.place (.indirect .bc))⟩,
    ⟨rfl, _, rfl, s.loadsReg8_load8 .a (.place (.indirect .de))⟩⟩

/-- Settles O31: the operand is the byte at the indexed address. -/
theorem ldRegFromIndexed : Obligations.LdRegFromIndexed := by
  unfold Obligations.LdRegFromIndexed
  exact fun s x r d => ⟨rfl, _, rfl, s.loadsReg8_load8 r (.place (.indexed x d))⟩

/-! ### Stores -/

/-- Settles O24: the register goes to the place HL resolves to. -/
theorem ldHlFromReg : Obligations.LdHlFromReg := by
  unfold Obligations.LdHlFromReg
  exact fun s r => ⟨rfl, _, rfl, State.storesOnly_load8 (.place (.reg r)) (Place.resolve_indirect s .hl)⟩

/-- Settles O26: the immediate goes to the place HL resolves to. -/
theorem ldHlImm : Obligations.LdHlImm := by
  unfold Obligations.LdHlImm
  exact fun s n => ⟨rfl, _, rfl, State.storesOnly_load8 (.imm8 n) (Place.resolve_indirect s .hl)⟩

/-- Settles O28: A goes to the place BC or DE resolves to. -/
theorem ldBcDeFromAcc : Obligations.LdBcDeFromAcc := by
  unfold Obligations.LdBcDeFromAcc
  intro s
  exact ⟨⟨rfl, _, rfl, State.storesOnly_load8 (.place (.reg .a)) (Place.resolve_indirect s .bc)⟩,
    ⟨rfl, _, rfl, State.storesOnly_load8 (.place (.reg .a)) (Place.resolve_indirect s .de)⟩⟩

/-- Settles O32: the register goes to the place the indexed address resolves to. -/
theorem ldIndexedFromReg : Obligations.LdIndexedFromReg := by
  unfold Obligations.LdIndexedFromReg
  exact fun s x r d => ⟨rfl, _, rfl, State.storesOnly_load8 (.place (.reg r)) (Place.resolve_indexed s x d)⟩

/-- Settles O29: the extended address is an operand of the one form and the place of the other. -/
theorem ldAccDirect : Obligations.LdAccDirect := by
  unfold Obligations.LdAccDirect
  intro s nn
  exact ⟨⟨rfl, _, rfl, s.loadsReg8_load8 .a (.place (.direct nn))⟩,
    ⟨rfl, _, rfl, State.storesOnly_load8 (.place (.reg .a)) (Place.resolve_direct s nn)⟩⟩

/-! ### 16-bit loads -/

/-- Settles O30: each destination's next state is the write to its halves, or to SP, and the halves join to nn again. -/
theorem ldPairImm : Obligations.LdPairImm := by
  unfold Obligations.LdPairImm
  intro s nn
  have hread : ∀ (p : Pair) (t : State), exec (.ldDdNn (.pair p) nn) s = .next t → t.pair p = nn := by
    intro p t ht
    have hnext : s.setPair p nn = t := Host.Outcome.next.inj ht
    rw [← hnext, State.pair_setPair_same]
  exact ⟨⟨rfl, rfl⟩, ⟨rfl, rfl⟩, ⟨rfl, rfl⟩, ⟨rfl, rfl⟩, hread⟩

/-- Settles O34: the encoding and the write to X, for each index register. -/
theorem ldIdxImm : Obligations.LdIdxImm := by
  unfold Obligations.LdIdxImm
  exact fun _ _ => ⟨⟨rfl, rfl⟩, ⟨rfl, rfl⟩⟩

end Sys2Proof.Machine
end

section
/-! The two-operand ALU mnemonics (43_arith_logic.md R180): their four operand forms for every mnemonic at once, by its `alu` field;
then each mnemonic, by what `State.alu` writes. -/

namespace Sys2Proof.Machine

open Sys2Proof

/-! ### One mnemonic's instruction in each form: its encoding and its meaning -/

section
variable (op : AluOp) (s : State)

@[simp] theorem encode_instrR (r : Reg8) : encode (op.instrR r) = [opByte 0b10 op.code r.code] := by cases op <;> rfl

@[simp] theorem encode_instrHl : encode op.instrHl = [opByte 0b10 op.code 0b110] := by cases op <;> rfl

@[simp] theorem encode_instrN (n : Byte) : encode (op.instrN n) = [opByte 0b11 op.code 0b110, n] := by cases op <;> rfl

@[simp] theorem encode_instrXd (x : Idx) (d : Byte) :
    encode (op.instrXd x d) = [x.escape, opByte 0b10 op.code 0b110, d] := by cases op <;> rfl

@[simp] theorem exec_instrR (r : Reg8) : exec (op.instrR r) s = .next (s.alu op (.place (.reg r))) := by cases op <;> rfl

@[simp] theorem exec_instrHl : exec op.instrHl s = .next (s.alu op (.place (.indirect .hl))) := by cases op <;> rfl

@[simp] theorem exec_instrN (n : Byte) : exec (op.instrN n) s = .next (s.alu op (.imm8 n)) := by cases op <;> rfl

@[simp] theorem exec_instrXd (x : Idx) (d : Byte) :
    exec (op.instrXd x d) s = .next (s.alu op (.place (.indexed x d))) := by cases op <;> rfl

end

/-- Where `State.alu` takes the state to `go` of the operand's value, the mnemonic does so in all four operand forms. -/
theorem aluForms_of_alu_eq (op : AluOp) {go : State → Byte → State}
    (halu : ∀ s src, s.alu op src = go s (s.readOperand src)) :
    AluForms op.code op.instrR op.instrHl op.instrN op.instrXd go := by
  intro s r n d x
  refine ⟨⟨encode_instrR .., ?reg⟩, ⟨encode_instrHl .., ?hl⟩, ⟨encode_instrN .., ?imm⟩, ⟨encode_instrXd .., ?idx⟩⟩
  case reg => rw [exec_instrR, halu, State.readOperand_place, Place.resolve_reg, State.readTarget_reg]
  case hl => rw [exec_instrHl, halu, State.readOperand_place, Place.resolve_indirect, State.readTarget_mem]
  case imm => rw [exec_instrN, halu, State.readOperand_imm8]
  case idx => rw [exec_instrXd, halu, State.readOperand_place, Place.resolve_indexed, State.readTarget_mem]

/-! ### The eight mnemonics -/

/-- Settles O42: ADD has `alu` field 000 and writes A and F from `arith` with no carry-in. -/
theorem addForms : Obligations.AddForms := by
  unfold Obligations.AddForms
  exact aluForms_of_alu_eq .add fun _ _ => rfl

/-- Settles O43: ADC has `alu` field 001 and adds the old F.C. -/
theorem adcForms : Obligations.AdcForms := by
  unfold Obligations.AdcForms
  exact aluForms_of_alu_eq .adc fun _ _ => rfl

/-- Settles O44: SUB has `alu` field 010 and writes A and F from the subtraction with no borrow-in. -/
theorem subForms : Obligations.SubForms := by
  unfold Obligations.SubForms
  exact aluForms_of_alu_eq .sub fun _ _ => rfl

/-- Settles O45: SBC has `alu` field 011 and subtracts the old F.C too. -/
theorem sbcForms : Obligations.SbcForms := by
  unfold Obligations.SbcForms
  exact aluForms_of_alu_eq .sbc fun _ _ => rfl

/-- Settles O46: CP has `alu` field 111 and discards SUB's result (`aluWritesA`), so A keeps its value. -/
theorem cpForms : Obligations.CpForms := by
  unfold Obligations.CpForms
  exact aluForms_of_alu_eq .cp fun _ _ => rfl

/-- Settles O47: AND, XOR and OR have `alu` fields 100, 101 and 110 and write A and F from `logic`, whose result is its argument. -/
theorem logicForms : Obligations.LogicForms := by
  unfold Obligations.LogicForms
  exact ⟨aluForms_of_alu_eq .and fun _ _ => rfl, aluForms_of_alu_eq .xor fun _ _ => rfl,
    aluForms_of_alu_eq .or fun _ _ => rfl⟩

end Sys2Proof.Machine
end

section
/-! Control transfer (44_control.md): a conditional transfer is a jump whose target depends on the condition; a step on a NOP or a JR
runs that instruction with PC past it. -/

namespace Sys2Proof.Machine

open Sys2Proof

/-! ### Jumps -/

/-- A transfer not taken leaves PC where the fetch left it. -/
theorem State.ite_jump (s : State) (p : Prop) [Decidable p] (target : Word) :
    (if p then s.jump target else s) = s.jump (if p then target else s.pc) :=
  (apply_ite s.jump p target s.pc).symm

/-- A displacement that undoes the fetch's move of PC leads back to the state before the fetch. -/
theorem State.jumpRel_advance_self (s : State) {n : Nat} {e : Byte} (h : BitVec.ofNat 16 n + sext16 e = 0) :
    (s.advance n).jumpRel e = s := by
  have hpc : s.pc + BitVec.ofNat 16 n + sext16 e = s.pc := by rw [add_assoc, h, add_zero]
  exact congrArg s.jump hpc

/-! ### The step on a known opcode byte -/

theorem step_of_decode {s : State} {i : Instr} (h : decode s.fetchWindow = .instr i) : step s = exec i (s.advance i.length) := by
  obtain ⟨j, hj, hstep⟩ | ⟨o, ho, -⟩ := step_cases s
  · cases h.symm.trans hj
    exact hstep
  · cases h.symm.trans ho

theorem State.decode_fetchWindow (s : State) :
    decode s.fetchWindow =
      decodeFour (s.readByte s.pc) (s.readByte (s.pc + 1)) (s.readByte (s.pc + 2)) (s.readByte (s.pc + 3)) := decode_four ..

theorem decodeFour_nop (b1 b2 b3 : Byte) : decodeFour 0x00 b1 b2 b3 = .instr .nop := rfl

theorem decodeFour_jr (e b2 b3 : Byte) : decodeFour 0x18 e b2 b3 = .instr (.jr e) := rfl

theorem State.readByte_of_holdsAtPc_pair {s : State} {b0 b1 : Byte} (h : s.holdsAtPc [b0, b1]) :
    s.readByte s.pc = b0 ∧ s.readByte (s.pc + 1) = b1 := by
  have h0 : s.readByte (s.pc + 0) = b0 := h 0 Nat.two_pos
  exact ⟨by rwa [add_zero] at h0, h 1 Nat.one_lt_two⟩

/-! ### The statements -/

/-- Settles O52: a 00 byte decodes to NOP, whose one byte PC has passed when it runs. -/
theorem nopOnlyMovesPc : Obligations.NopOnlyMovesPc := by
  unfold Obligations.NopOnlyMovesPc
  refine ⟨rfl, fun _ => rfl, fun s h => ?_⟩
  have hdec : decode s.fetchWindow = .instr .nop := by rw [s.decode_fetchWindow, h, decodeFour_nop]
  exact step_of_decode hdec

/-- Settles O53: the conditional jump is a jump to nn or to the PC it finds. -/
theorem absoluteJumps : Obligations.AbsoluteJumps := by
  unfold Obligations.AbsoluteJumps
  intro s cc nn
  exact ⟨⟨rfl, rfl⟩, rfl, congrArg Host.Outcome.next (s.ite_jump _ nn)⟩

/-- Settles O54: the conditional jump is a jump to the displaced PC or to the PC it finds; -2 undoes the two bytes fetched. -/
theorem relativeJumps : Obligations.RelativeJumps := by
  unfold Obligations.RelativeJumps
  intro s cc e
  refine ⟨⟨rfl, rfl⟩, ⟨?enc, congrArg Host.Outcome.next (s.ite_jump _ (s.pc + sext16 e))⟩, fun h => ?fixed⟩
  case enc => exact congrArg (fun y => [opByte 0 y 0, e]) (add_comm cc.code 4)
  case fixed =>
    obtain ⟨h0, h1⟩ := State.readByte_of_holdsAtPc_pair h
    have hdec : decode s.fetchWindow = .instr (.jr 0xFE) := by rw [s.decode_fetchWindow, h0, h1, decodeFour_jr]
    have hback : (s.advance 2).jumpRel 0xFE = s := s.jumpRel_advance_self (by decide)
    exact (step_of_decode hdec).trans (congrArg Host.Outcome.next hback)

end Sys2Proof.Machine
end

section
/-! No exception crosses the step (60_exceptions.md R220): an instruction always completes, an unknown opcode is absorbed as one event
(R86, R87), and so the run loop ends on the sentinel or with its fuel. -/

namespace Sys2Proof.Machine

open Sys2Proof

/-! ### A step completes -/

/-- No instruction's meaning faults or refuses. -/
theorem exec_completes (i : Instr) (s : State) : ∃ t, exec i s = .next t := by cases i <;> exact ⟨_, rfl⟩

theorem step_completes (s : State) : ∃ t, step s = .next t := by
  obtain ⟨i, -, hstep⟩ | ⟨o, -, hstep⟩ := step_cases s
  · obtain ⟨t, ht⟩ := exec_completes i (s.advance i.length)
    exact ⟨t, hstep.trans ht⟩
  · exact ⟨_, hstep⟩

/-! ### What the listed unknown opcodes decode to (R80, R86, R87) -/

/-- The bytes R86 lists are those that are neither an escape byte nor a row of the primary table. -/
theorem unknownPrimaryBytes_contains (o : Byte) :
    unknownPrimaryBytes.contains o = ((Idx.ofEscape o).isNone && (primaryRow o).isNone) := by
  revert o
  decide

theorem decodeFour_unknownPrimary {b0 : Byte} (h : unknownPrimaryBytes.contains b0 = true) (b1 b2 b3 : Byte) :
    decodeFour b0 b1 b2 b3 = .unknown b0 := by
  rw [unknownPrimaryBytes_contains, Bool.and_eq_true, Option.isNone_iff_eq_none, Option.isNone_iff_eq_none] at h
  obtain ⟨hesc, hrow⟩ := h
  simp only [decodeFour, hesc, hrow]

theorem decodeFour_unknownSecond (x : Idx) {o : Byte} (h : knownSecondBytes.contains o = false) (b2 b3 : Byte) :
    decodeFour x.escape o b2 b3 = .instr (x.unknownInstr o) := by
  have hrow : escapedRow x o = none := by
    rw [← Option.not_isSome_iff_eq_none, escapedRow_isSome, h]
    exact Bool.false_ne_true
  simp only [decodeFour, Idx.ofEscape_escape, decodeEscaped, hrow]

/-- The unknown opcodes: a byte R86 lists, or an escape byte before a second byte R80 does not list. -/
theorem unknownEvent_cases {b0 b1 : Byte} {ev : DiagEvent} (h : unknownEvent b0 b1 = some ev) :
    (unknownPrimaryBytes.contains b0 = true ∧ ev = ⟨.primary, b0⟩) ∨
      (knownSecondBytes.contains b1 = false ∧
        (b0 = Idx.ix.escape ∧ ev = ⟨.dd, b1⟩ ∨ b0 = Idx.iy.escape ∧ ev = ⟨.fd, b1⟩)) := by
  unfold unknownEvent at h
  split at h
  next hprimary =>
    exact .inl ⟨hprimary, (Option.some.inj h).symm⟩
  next =>
    split at h
    next hdd =>
      simp only [Bool.and_eq_true, decide_eq_true_eq, Bool.not_eq_true'] at hdd
      obtain ⟨hescape, hsecond⟩ := hdd
      exact .inr ⟨hsecond, .inl ⟨hescape, (Option.some.inj h).symm⟩⟩
    next =>
      split at h
      next hfd =>
        simp only [Bool.and_eq_true, decide_eq_true_eq, Bool.not_eq_true'] at hfd
        obtain ⟨hescape, hsecond⟩ := hfd
        exact .inr ⟨hsecond, .inr ⟨hescape, (Option.some.inj h).symm⟩⟩
      next => cases h

/-! ### The step on an unknown opcode -/

theorem step_of_unknownPrimary {s : State} (h : unknownPrimaryBytes.contains (s.readByte s.pc) = true) :
    step s = .next ((s.advance 1).emit ⟨.primary, s.readByte s.pc⟩) := by
  have hdec : decode s.fetchWindow = .unknown (s.readByte s.pc) := by
    rw [s.decode_fetchWindow, decodeFour_unknownPrimary h]
  obtain ⟨i, hi, -⟩ | ⟨o, ho, hstep⟩ := step_cases s
  · cases hdec.symm.trans hi
  · cases hdec.symm.trans ho
    exact hstep

theorem step_of_unknownSecond {s : State} {x : Idx} (h0 : s.readByte s.pc = x.escape)
    (h1 : knownSecondBytes.contains (s.readByte (s.pc + 1)) = false) :
    step s = exec (x.unknownInstr (s.readByte (s.pc + 1))) (s.advance 2) := by
  have hdec : decode s.fetchWindow = .instr (x.unknownInstr (s.readByte (s.pc + 1))) := by
    rw [s.decode_fetchWindow, h0, decodeFour_unknownSecond x h1]
  have hlen : (x.unknownInstr (s.readByte (s.pc + 1))).length = 2 := by cases x <;> rfl
  rw [step_of_decode hdec, hlen]

/-- An unknown opcode is passed over, one byte or two, and its event emitted (R222). -/
theorem step_of_unknownEvent {s : State} {ev : DiagEvent}
    (h : unknownEvent (s.readByte s.pc) (s.readByte (s.pc + 1)) = some ev) :
    step s = .next ((s.advance (if ev.table = .primary then 1 else 2)).emit ev) := by
  obtain ⟨hprimary, rfl⟩ | ⟨hsecond, ⟨hdd, rfl⟩ | ⟨hfd, rfl⟩⟩ := unknownEvent_cases h
  · exact step_of_unknownPrimary hprimary
  · exact step_of_unknownSecond hdd hsecond
  · exact step_of_unknownSecond hfd hsecond

/-! ### The run loop -/

theorem core_run_succ {s t : State} (h : step s = .next t) (k : Nat) : core.run (k + 1) s = core.run k t := by
  simp only [Host.Core.run, core, h]

/-- A run under fuel ends in one of two ways: halted on the sentinel, or without an end after as many steps as its fuel. -/
theorem runUntilHalt_cases (fuel : Nat) (s : State) :
    (∃ t evs, runUntilHalt fuel s = .halted t evs ∧ t.readByte t.pc = 0x00) ∨
      (∃ t evs, runUntilHalt fuel s = .noEnd t evs ∧ core.run fuel s = .next t) := by
  induction fuel generalizing s with
  | zero =>
    cases hhalt : s.haltDetect with
    | true => exact .inl ⟨s, [], runUntilHalt_of_halt 0 hhalt, s.haltDetect_iff.mp hhalt⟩
    | false => exact .inr ⟨s, [], by simp [runUntilHalt, hhalt], rfl⟩
  | succ fuel ih =>
    cases hhalt : s.haltDetect with
    | true => exact .inl ⟨s, [], runUntilHalt_of_halt _ hhalt, s.haltDetect_iff.mp hhalt⟩
    | false =>
      obtain ⟨u, hstep⟩ := step_completes s
      have hrun := runUntilHalt_step fuel hhalt hstep
      obtain ⟨t, evs, hend, hzero⟩ | ⟨t, evs, hend, hcore⟩ := ih u
      · exact .inl ⟨t, _, by rw [hrun, hend, RunResult.after_halted], hzero⟩
      · exact .inr ⟨t, _, by rw [hrun, hend, RunResult.after_noEnd], (core_run_succ hstep fuel).trans hcore⟩

/-- Settles O9: every instruction completes and an unknown opcode's step is the report of its event; the run, by its two ends. -/
theorem stepAlwaysCompletes : Obligations.StepAlwaysCompletes := by
  unfold Obligations.StepAlwaysCompletes
  refine ⟨fun s => ?step, fun fuel s => ?run⟩
  case step =>
    obtain ⟨t, ht⟩ := step_completes s
    refine ⟨t, ht, fun ev hev => ?_⟩
    cases ht.symm.trans (step_of_unknownEvent hev)
    rfl
  case run =>
    obtain ⟨t, evs, hend, hzero⟩ | ⟨t, evs, hend, hcore⟩ := runUntilHalt_cases fuel s
    · rw [hend]
      exact hzero
    · rw [hend]
      exact hcore

end Sys2Proof.Machine
end

section
/-! The run loop under fuel (70_reset_and_hazards.md R245, R247, R248): it ends at the first sentinel, with exactly its own events. What a
step adds to the model's record of events (log entry 4) is the event its `diag` port carries, if any. -/

namespace Sys2Proof.Machine

open Sys2Proof

/-! ### What an operation, an instruction and a step add to the record of events -/

@[simp] theorem State.writeTarget_events (s : State) (t : Target) (v : Byte) : (s.writeTarget t v).events = s.events := by
  cases t <;> simp

@[simp] theorem State.load8_events (s : State) (dst : Place) (src : Operand) : (s.load8 dst src).events = s.events :=
  State.writeTarget_events ..

@[simp] theorem State.incDec_events (s : State) (p : Place) (sub : Bool) : (s.incDec p sub).events = s.events :=
  State.writeTarget_events ..

/-- The record is the old one, or the old one with one event more. -/
def AddsAtMostOneEvent (s t : State) : Prop := t.events = s.events ∨ ∃ ev, t.events = s.events ++ [ev]

/-- By what an instruction does last: a report emits an event (R87), a load, INC or DEC writes one place, a conditional jump has two
branches, and the others (ALU, NOP, JP, JR) update registers in one way. -/
theorem exec_addsAtMostOneEvent (i : Instr) (s : State) : ∃ t, exec i s = .next t ∧ AddsAtMostOneEvent s t := by
  cases i with
  | prefixDD | prefixFD => exact ⟨_, rfl, .inr ⟨_, rfl⟩⟩
  | ldRR | ldRHl | ldHlR | ldRN | ldHlN | ldABc | ldADe | ldBcA | ldDeA | ldADir | ldDirA | ldRXd | ldXdR | ldXdN | ldRNPrefixed =>
    exact ⟨_, rfl, .inl (State.load8_events ..)⟩
  | ldDdNn => exact ⟨_, rfl, .inl (State.setDest16_events ..)⟩
  | ldXNn | ldXDir => exact ⟨_, rfl, .inl (State.setIdx_events ..)⟩
  | incR | incHl | incXd | decR | decHl | decXd => exact ⟨_, rfl, .inl (State.incDec_events ..)⟩
  | jpCc | jrCc | djnz => exact ⟨_, rfl, .inl (by split <;> rfl)⟩
  | _ => exact ⟨_, rfl, .inl rfl⟩

theorem step_addsAtMostOneEvent (s : State) : ∃ t, step s = .next t ∧ AddsAtMostOneEvent s t := by
  obtain ⟨i, -, hstep⟩ | ⟨o, -, hstep⟩ := step_cases s
  · rw [hstep]
    exact exec_addsAtMostOneEvent i (s.advance i.length)
  · exact ⟨_, hstep, .inr ⟨_, rfl⟩⟩

/-- A step adds to the record the event `stepEvent` reads off it, and nothing else. -/
theorem events_of_step {s t : State} (h : step s = .next t) : t.events = s.events ++ (stepEvent s).toList := by
  have hev : stepEvent s = t.events[s.events.length]? := by simp [stepEvent, h]
  obtain ⟨u, hu, hadds⟩ := step_addsAtMostOneEvent s
  cases h.symm.trans hu
  obtain hsame | ⟨ev, hone⟩ := hadds
  · simp [hev, hsame]
  · simp [hev, hone]

/-! ### The steps of a run before its end -/

/-- `n` steps lead from `s` to `t`, none of them taken on the sentinel, and `evs` are the events of these steps. -/
structure ReachesOffSentinel (n : Nat) (s t : State) (evs : List DiagEvent) : Prop where
  run : core.run n s = .next t
  events : t.events = s.events ++ evs
  before : ∀ k < n, ∃ u : State, core.run k s = .next u ∧ u.readByte u.pc ≠ 0x00

theorem State.haltDetect_eq_false_iff (s : State) : s.haltDetect = false ↔ s.readByte s.pc ≠ 0x00 := by
  rw [← Bool.not_eq_true, s.haltDetect_iff]

theorem ReachesOffSentinel.refl (s : State) : ReachesOffSentinel 0 s s [] where
  run := rfl
  events := (List.append_nil _).symm
  before k hk := absurd hk k.not_lt_zero

/-- A step off the sentinel put before the steps of a run. -/
theorem ReachesOffSentinel.cons {n : Nat} {s u t : State} {evs : List DiagEvent} (hoff : s.haltDetect = false)
    (hstep : step s = .next u) (h : ReachesOffSentinel n u t evs) :
    ReachesOffSentinel (n + 1) s t ((stepEvent s).toList ++ evs) where
  run := (core_run_succ hstep n).trans h.run
  events := by rw [h.events, events_of_step hstep, List.append_assoc]
  before k hk := by
    cases k with
    | zero => exact ⟨s, rfl, s.haltDetect_eq_false_iff.mp hoff⟩
    | succ k =>
      rw [core_run_succ hstep]
      exact h.before k (Nat.lt_of_succ_lt_succ hk)

/-! ### The run loop's two ends -/

/-- The run loop halts on the sentinel within its fuel, or has taken a step for all of its fuel and still is off the sentinel. -/
theorem runUntilHalt_ends (fuel : Nat) (s : State) :
    (∃ n t evs, n ≤ fuel ∧ runUntilHalt fuel s = .halted t evs ∧ ReachesOffSentinel n s t evs ∧ t.haltDetect = true) ∨
      (∃ t evs, runUntilHalt fuel s = .noEnd t evs ∧ ReachesOffSentinel fuel s t evs ∧ t.haltDetect = false) := by
  induction fuel generalizing s with
  | zero =>
    cases hhalt : s.haltDetect with
    | true => exact .inl ⟨0, s, [], le_rfl, runUntilHalt_of_halt 0 hhalt, .refl s, hhalt⟩
    | false => exact .inr ⟨s, [], by simp [runUntilHalt, hhalt], .refl s, hhalt⟩
  | succ fuel ih =>
    cases hhalt : s.haltDetect with
    | true => exact .inl ⟨0, s, [], Nat.zero_le _, runUntilHalt_of_halt _ hhalt, .refl s, hhalt⟩
    | false =>
      obtain ⟨u, hstep⟩ := step_completes s
      have hrun := runUntilHalt_step fuel hhalt hstep
      obtain ⟨n, t, evs, hle, hend, hreach, hlast⟩ | ⟨t, evs, hend, hreach, hlast⟩ := ih u
      · exact .inl ⟨n + 1, t, _, Nat.succ_le_succ hle, by rw [hrun, hend, RunResult.after_halted], hreach.cons hhalt hstep, hlast⟩
      · exact .inr ⟨t, _, by rw [hrun, hend, RunResult.after_noEnd], hreach.cons hhalt hstep, hlast⟩

/-- Settles O59, from the run loop's two ends; where there is no end, the last state is off the sentinel as those before it are. -/
theorem runStopsAtFirstSentinel : Obligations.RunStopsAtFirstSentinel := by
  unfold Obligations.RunStopsAtFirstSentinel
  intro fuel s
  obtain ⟨n, t, evs, hle, hend, ⟨hrun, hevents, hbefore⟩, hlast⟩ | ⟨t, evs, hend, ⟨hrun, hevents, hbefore⟩, hlast⟩ :=
    runUntilHalt_ends fuel s
  · exact .inl ⟨n, t, evs, hle, hend, hrun, t.haltDetect_iff.mp hlast, hevents, hbefore⟩
  · refine .inr ⟨t, evs, hend, hrun, hevents, fun k hk => ?_⟩
    obtain hlt | rfl := hk.lt_or_eq
    · exact hbefore k hlt
    · exact ⟨t, hrun, t.haltDetect_eq_false_iff.mp hlast⟩

end Sys2Proof.Machine
end

section
/-! The decoder against the encoder (30_encoding.md): an encoded instruction decodes to itself, a table row's instruction encodes to the
bytes that selected the row, and so the two directions of the round trip. -/

namespace Sys2Proof

open Sys2Proof.Machine

/-! ### Decoding an encoding (R70 to R85, R94) -/

/-- With its register, pair, condition and index fields given, an instruction's opcode bytes are literals that select its row; its
operand bytes stay symbolic, and the two bytes of nn join to nn again. -/
theorem decode_encode_append {i : Instr} (h : i.wf = true) (rest : List Byte) : decode (encode i ++ rest) = .instr i := by
  cases i with
  | nop | ldABc | ldADe | ldBcA | ldDeA | ldHlN | jr | djnz => exact (decode_one ..).trans rfl
  | addHl | adcHl | subHl | sbcHl | andHl | xorHl | orHl | cpHl | incHl | decHl => exact (decode_one ..).trans rfl
  | addN | adcN | subN | sbcN | andN | xorN | orN | cpN => exact (decode_one ..).trans rfl
  | ldRR dst src => cases dst <;> cases src <;> exact (decode_one ..).trans rfl
  | ldRHl r | ldHlR r | ldRN r | incR r | decR r => cases r <;> exact (decode_one ..).trans rfl
  | addR r | adcR r | subR r | sbcR r | andR r | xorR r | orR r | cpR r => cases r <;> exact (decode_one ..).trans rfl
  | ldADir nn | ldDirA nn | jp nn =>
    conv_rhs => rw [← joinBytes_hi_lo nn]
    exact (decode_one ..).trans rfl
  | ldDdNn dd nn =>
    conv_rhs => rw [← joinBytes_hi_lo nn]
    obtain ⟨_ | _ | _⟩ | _ := dd <;> exact (decode_one ..).trans rfl
  | jpCc cc nn =>
    conv_rhs => rw [← joinBytes_hi_lo nn]
    cases cc <;> exact (decode_one ..).trans rfl
  | jrCc cc =>
    cases cc with
    | nz | z | nc | c => exact (decode_one ..).trans rfl
    | po | pe | p | m => cases h
  | ldRXd x r | ldXdR x r => cases x <;> cases r <;> exact (decode_two ..).trans rfl
  | ldXdN x | incXd x | decXd x => cases x <;> exact (decode_two ..).trans rfl
  | addXd x | adcXd x | subXd x | sbcXd x | andXd x | xorXd x | orXd x | cpXd x =>
    cases x <;> exact (decode_two ..).trans rfl
  | ldXNn x nn | ldXDir x nn =>
    conv_rhs => rw [← joinBytes_hi_lo nn]
    cases x <;> exact (decode_two ..).trans rfl
  | ldRNPrefixed x r =>
    cases r with
    | b | c | d | e | a => cases x <;> exact (decode_two ..).trans rfl
    | h | l => cases h
  | prefixDD o => exact decodeFour_unknownSecond .ix ((Bool.not_eq_true' _).mp h) ..
  | prefixFD o => exact decodeFour_unknownSecond .iy ((Bool.not_eq_true' _).mp h) ..

/-- Settles O1: bytes after an encoding are no operand of it. -/
theorem encodeThenDecode : Obligations.EncodeThenDecode := by
  unfold Obligations.EncodeThenDecode
  exact fun _ rest h => decode_encode_append h rest

theorem encode_injective_of_wf {i j : Instr} (hi : i.wf = true) (hj : j.wf = true) (h : encode i = encode j) : i = j := by
  have hdec : Decoded.instr i = .instr j := by
    rw [← decode_encode_append hi [], h, decode_encode_append hj]
  exact Decoded.instr.inj hdec

theorem encode_length (i : Instr) : (encode i).length = i.length := by cases i <;> rfl

/-! ### Encoding a table row (R76, R78, R80, R94) -/

@[simp] theorem opByte_fields (o : Byte) : opByte (fieldX o) (fieldY o) (fieldZ o) = o := by
  apply BitVec.eq_of_getLsbD_eq
  intro k hk
  simp only [opByte, fieldX, fieldY, fieldZ, BitVec.getLsbD_append, BitVec.getLsbD_extractLsb']
  grind

theorem opByte_eq_of_fields {o : Byte} {x : BitVec 2} {y z : BitVec 3} (hx : fieldX o = x) (hy : fieldY o = y)
    (hz : fieldZ o = z) : opByte x y z = o := by
  rw [← hx, ← hy, ← hz, opByte_fields]

theorem Reg8.code_of_ofCode {y : BitVec 3} {r : Reg8} (h : Reg8.ofCode y = some r) : y = r.code := by
  revert y r
  decide

theorem Reg8.ofCode_eq_none {y : BitVec 3} (h : Reg8.ofCode y = none) : y = memCode := by
  revert y
  decide

@[simp] theorem AluOp.code_ofCode (y : BitVec 3) : (AluOp.ofCode y).code = y := by
  revert y
  decide

@[simp] theorem Cond.code_ofCode (y : BitVec 3) : (Cond.ofCode y).code = y := by
  revert y
  decide

@[simp] theorem Dest16.code_ofCode (y : BitVec 2) : (Dest16.ofCode y).code = y := by
  revert y
  decide

theorem ddByte_eq_of_fields {o : Byte} (hx : fieldX o = 0) (hz : fieldZ o = 1) (hq : fieldQ o = 0) :
    (0#2 ++ fieldP o ++ 0b0001#4 : BitVec (2 + 2 + 4)) = o := by
  revert o
  decide

theorem bytes_joinBytes (hi lo : Byte) : [hiByte (joinBytes hi lo), loByte (joinBytes hi lo)] = [hi, lo] := by simp

section
variable {o : Byte} {row : OpRow} (p q : Byte)

theorem primaryRowX0_encode (hx : fieldX o = 0) (h : primaryRowX0 o = some row) :
    encode (row.build p q) = o :: [p, q].take row.format.operandBytes := by
  unfold primaryRowX0 at h
  split at h
  case h_1 hz | h_2 hz | h_3 hz =>
    split at h <;> cases h
    case h_1 hr => exact congrArg₂ List.cons (opByte_eq_of_fields hx (Reg8.code_of_ofCode hr) hz) rfl
    case h_2 hr => exact congrArg₂ List.cons (opByte_eq_of_fields hx (Reg8.ofCode_eq_none hr) hz) rfl
  case h_4 hz =>
    split at h <;> cases h
    case isTrue hq =>
      have ho := ddByte_eq_of_fields hx hz hq
      rw [← Dest16.code_ofCode (fieldP o)] at ho
      exact congrArg₂ List.cons ho (bytes_joinBytes p q)
  case h_5 =>
    split at h <;> cases h
    -- the two rows with an nn, then those without
    case h_6 | h_7 => exact congrArg₂ List.cons rfl (bytes_joinBytes p q)
    all_goals rfl

theorem primaryRowX1_encode (hx : fieldX o = 1) (h : primaryRowX1 o = some row) :
    encode (row.build p q) = o :: [p, q].take row.format.operandBytes := by
  unfold primaryRowX1 at h
  split at h <;> cases h
  case h_1 hy hz => exact congrArg₂ List.cons (opByte_eq_of_fields hx (Reg8.code_of_ofCode hy) (Reg8.code_of_ofCode hz)) rfl
  case h_2 hy hz => exact congrArg₂ List.cons (opByte_eq_of_fields hx (Reg8.code_of_ofCode hy) (Reg8.ofCode_eq_none hz)) rfl
  case h_3 hy hz => exact congrArg₂ List.cons (opByte_eq_of_fields hx (Reg8.ofCode_eq_none hy) (Reg8.code_of_ofCode hz)) rfl

theorem primaryRowX2_encode (hx : fieldX o = 2) (h : primaryRowX2 o = some row) :
    encode (row.build p q) = o :: [p, q].take row.format.operandBytes := by
  have hy : fieldY o = (AluOp.ofCode (fieldY o)).code := (AluOp.code_ofCode _).symm
  unfold primaryRowX2 at h
  split at h <;> cases h
  case h_1 hz =>
    exact (encode_instrR ..).trans (congrArg₂ List.cons (opByte_eq_of_fields hx hy (Reg8.code_of_ofCode hz)) rfl)
  case h_2 hz =>
    exact (encode_instrHl ..).trans (congrArg₂ List.cons (opByte_eq_of_fields hx hy (Reg8.ofCode_eq_none hz)) rfl)

theorem primaryRowX3_encode (hx : fieldX o = 3) (h : primaryRowX3 o = some row) :
    encode (row.build p q) = o :: [p, q].take row.format.operandBytes := by
  unfold primaryRowX3 at h
  split at h
  case h_1 hz =>
    cases h
    exact (encode_instrN ..).trans (congrArg₂ List.cons (opByte_eq_of_fields hx (AluOp.code_ofCode _).symm hz) rfl)
  case h_2 hz =>
    cases h
    exact congrArg₂ List.cons (opByte_eq_of_fields hx (Cond.code_ofCode _).symm hz) (bytes_joinBytes p q)
  case h_3 =>
    split at h <;> cases h
    case isTrue ho => exact congrArg₂ List.cons ho.symm (bytes_joinBytes p q)

theorem primaryRow_encode (h : primaryRow o = some row) :
    encode (row.build p q) = o :: [p, q].take row.format.operandBytes := by
  unfold primaryRow at h
  split at h
  case h_1 hx => exact primaryRowX0_encode p q hx h
  case h_2 hx => exact primaryRowX1_encode p q hx h
  case h_3 hx => exact primaryRowX2_encode p q hx h
  case h_4 h0 h1 h2 =>
    have hx : fieldX o = 3 := by
      generalize fieldX o = x at h0 h1 h2
      revert x
      decide
    exact primaryRowX3_encode p q hx h

theorem escapedRow_encode {x : Idx} (h : escapedRow x o = some row) :
    encode (row.build p q) = x.escape :: o :: [p, q].take row.format.operandBytes := by
  unfold escapedRow at h
  split at h
  case h_1 =>
    split at h <;> cases h
    -- the two rows with an nn, then those without
    case h_4 | h_5 => exact congrArg (x.escape :: _ :: ·) (bytes_joinBytes p q)
    all_goals rfl
  case h_2 hx =>
    split at h <;> cases h
    case h_1 hy hz =>
      exact congrArg (x.escape :: · :: _) (opByte_eq_of_fields hx (Reg8.code_of_ofCode hy) (Reg8.ofCode_eq_none hz))
    case h_2 hy hz =>
      exact congrArg (x.escape :: · :: _) (opByte_eq_of_fields hx (Reg8.ofCode_eq_none hy) (Reg8.code_of_ofCode hz))
  case h_3 hx =>
    split at h <;> cases h
    case h_2 hz =>
      exact (encode_instrXd ..).trans
        (congrArg (x.escape :: · :: _) (opByte_eq_of_fields hx (AluOp.code_ofCode _).symm (Reg8.ofCode_eq_none hz)))
  case h_4 => cases h
end

theorem Format.operandBytes_le_two (fmt : Format) : fmt.operandBytes ≤ 2 := by cases fmt <;> decide

/-- A row's instructions: well formed, and encoded as the row's opcode bytes with as many operand bytes as its format has. -/
structure OpRow.Encodes (row : OpRow) (opcode : List Byte) : Prop where
  wf : ∀ p q, (row.build p q).wf = true
  encode_eq : ∀ p q, encode (row.build p q) = opcode ++ [p, q].take row.format.operandBytes

theorem primaryRow_encodes {o : Byte} {row : OpRow} (h : primaryRow o = some row) : row.Encodes [o] where
  wf p q := (primaryRow_build h p q).2
  encode_eq p q := primaryRow_encode p q h

theorem escapedRow_encodes {x : Idx} {o : Byte} {row : OpRow} (h : escapedRow x o = some row) : row.Encodes [x.escape, o] where
  wf p q := (escapedRow_build h p q).2
  encode_eq p q := escapedRow_encode p q h

namespace OpRow.Encodes

variable {row : OpRow} {opcode : List Byte} (h : row.Encodes opcode)
include h

theorem length_build (p q : Byte) : (row.build p q).length = opcode.length + row.format.operandBytes := by
  have hle : row.format.operandBytes ≤ [p, q].length := row.format.operandBytes_le_two
  rw [← encode_length, h.encode_eq, List.length_append, List.length_take_of_le hle]

theorem encode_eq_take (p q : Byte) (rest : List Byte) :
    encode (row.build p q) = (opcode ++ p :: q :: rest).take (row.build p q).length := by
  have hle : row.format.operandBytes ≤ [p, q].length := row.format.operandBytes_le_two
  have htake : (p :: q :: rest).take row.format.operandBytes = [p, q].take row.format.operandBytes :=
    List.take_append_of_le_length (l₂ := rest) hle
  rw [h.length_build, List.take_length_add_append, htake, h.encode_eq]

/-- Well-formed instructions of one encoding are equal, so a row's instruction depends on no more operand bytes than its format
has. -/
theorem build_congr {n : Nat} {p q p' q' : Byte} (hn : row.format.operandBytes = n) (htake : [p, q].take n = [p', q'].take n) :
    row.build p q = row.build p' q' :=
  encode_injective_of_wf (h.wf p q) (h.wf p' q') (by rw [h.encode_eq, h.encode_eq, hn, htake])

end OpRow.Encodes

/-! ### Every way to decode (R77, R86, R87) -/

theorem Idx.ofEscape_of_primaryRow {o : Byte} {row : OpRow} (h : primaryRow o = some row) : Idx.ofEscape o = none := by
  cases hx : Idx.ofEscape o with
  | none => rfl
  | some x =>
    rw [Idx.ofEscape_eq_some hx, primaryRow_escape] at h
    cases h

theorem decodeFour_of_primaryRow {b0 : Byte} {row : OpRow} (h : primaryRow b0 = some row) (b1 b2 b3 : Byte) :
    decodeFour b0 b1 b2 b3 = .instr (row.build b1 b2) := by
  simp only [decodeFour, Idx.ofEscape_of_primaryRow h, h]

theorem decodeFour_of_escapedRow {x : Idx} {b1 : Byte} {row : OpRow} (h : escapedRow x b1 = some row) (b2 b3 : Byte) :
    decodeFour x.escape b1 b2 b3 = .instr (row.build b2 b3) := by
  simp only [decodeFour, Idx.ofEscape_escape, decodeEscaped, h]

theorem escapedRow_eq_none_iff (x : Idx) (o : Byte) : escapedRow x o = none ↔ knownSecondBytes.contains o = false := by
  rw [← escapedRow_isSome x o, Option.isSome_eq_false_iff, Option.isNone_iff_eq_none]

/-- The first two bytes name a row of the primary table or of an escape byte's, an unknown second byte, or an unknown primary
opcode. -/
theorem opcode_cases (b0 b1 : Byte) :
    (∃ row, primaryRow b0 = some row) ∨ (∃ x row, b0 = Idx.escape x ∧ escapedRow x b1 = some row) ∨
      (∃ x, b0 = Idx.escape x ∧ knownSecondBytes.contains b1 = false) ∨ unknownPrimaryBytes.contains b0 = true := by
  cases hx : Idx.ofEscape b0 with
  | some x =>
    cases hrow : escapedRow x b1 with
    | some row => exact .inr (.inl ⟨x, row, Idx.ofEscape_eq_some hx, hrow⟩)
    | none => exact .inr (.inr (.inl ⟨x, Idx.ofEscape_eq_some hx, (escapedRow_eq_none_iff x b1).mp hrow⟩))
  | none =>
    cases hrow : primaryRow b0 with
    | some row => exact .inl ⟨row, rfl⟩
    | none => exact .inr (.inr (.inr (by rw [unknownPrimaryBytes_contains, hx, hrow]; rfl)))

/-! ### The round trip from the bytes -/

section
variable (x : Idx) (o : Byte)

theorem Idx.unknownInstr_wf (h : knownSecondBytes.contains o = false) : (x.unknownInstr o).wf = true := by
  cases x <;> exact (Bool.not_eq_true' _).mpr h

@[simp] theorem Idx.unknownInstr_format : (x.unknownInstr o).format = none := by cases x <;> rfl

@[simp] theorem Idx.unknownInstr_length : (x.unknownInstr o).length = 2 := by cases x <;> rfl

@[simp] theorem Idx.encode_unknownInstr : encode (x.unknownInstr o) = [x.escape, o] := by cases x <;> rfl

end

/-- Settles O2: in each way to decode, the instruction encodes to the opcode bytes and as many operand bytes as its format has. -/
theorem decodeThenEncode : Obligations.DecodeThenEncode := by
  unfold Obligations.DecodeThenEncode
  intro b0 b1 b2 b3 i h
  obtain ⟨row, hrow⟩ | ⟨x, row, rfl, hrow⟩ | ⟨x, rfl, hsecond⟩ | hprimary := opcode_cases b0 b1
  · cases (decodeFour_of_primaryRow hrow ..).symm.trans h
    have henc := primaryRow_encodes hrow
    exact ⟨henc.wf b1 b2, henc.encode_eq_take b1 b2 [b3]⟩
  · cases (decodeFour_of_escapedRow hrow ..).symm.trans h
    have henc := escapedRow_encodes hrow
    exact ⟨henc.wf b2 b3, henc.encode_eq_take b2 b3 []⟩
  · cases (decodeFour_unknownSecond x hsecond ..).symm.trans h
    exact ⟨x.unknownInstr_wf b1 hsecond, by simp⟩
  · cases (decodeFour_unknownPrimary hprimary ..).symm.trans h

/-! ### The unknown opcodes (R80, R86, R87) -/

theorem decodeFour_eq_unknown_iff (b0 b1 b2 b3 o : Byte) :
    decodeFour b0 b1 b2 b3 = .unknown o ↔ b0 = o ∧ o ∈ unknownPrimaryBytes := by
  constructor
  · intro h
    obtain ⟨row, hrow⟩ | ⟨x, row, rfl, hrow⟩ | ⟨x, rfl, hsecond⟩ | hprimary := opcode_cases b0 b1
    · cases (decodeFour_of_primaryRow hrow ..).symm.trans h
    · cases (decodeFour_of_escapedRow hrow ..).symm.trans h
    · cases (decodeFour_unknownSecond x hsecond ..).symm.trans h
    · cases (decodeFour_unknownPrimary hprimary ..).symm.trans h
      exact ⟨rfl, List.contains_iff_mem.mp hprimary⟩
  · rintro ⟨rfl, hmem⟩
    exact decodeFour_unknownPrimary (List.contains_iff_mem.mpr hmem) ..

theorem decodeFour_eq_unknownInstr_iff (x : Idx) (o b2 b3 : Byte) :
    decodeFour x.escape o b2 b3 = .instr (x.unknownInstr o) ↔ o ∉ knownSecondBytes := by
  rw [← List.contains_iff_mem, Bool.not_eq_true]
  refine ⟨fun h => (escapedRow_eq_none_iff x o).mp ?_, fun h => decodeFour_unknownSecond x h ..⟩
  cases hrow : escapedRow x o with
  | none => rfl
  | some row =>
    rw [decodeFour_of_escapedRow hrow] at h
    have hformat := (escapedRow_build hrow b2 b3).1
    rw [Decoded.instr.inj h, Idx.unknownInstr_format] at hformat
    cases hformat

/-- Settles O3: of the ways to decode, just the two unknown ones have an unknown outcome; that the lists hold no escape byte is
read off them. -/
theorem unknownOpcodesAreTheListedBytes : Obligations.UnknownOpcodesAreTheListedBytes := by
  unfold Obligations.UnknownOpcodesAreTheListedBytes
  refine ⟨decodeFour_eq_unknown_iff, decodeFour_eq_unknownInstr_iff, fun x y => ?_⟩
  cases x <;> cases y <;> decide

/-! ### Fields and tables (R71 to R75) -/

section
variable (o : Byte)

theorem toNat_fieldX : (fieldX o).toNat = o.toNat / 64 := by
  have hlt : o.toNat < 256 := o.isLt
  rw [fieldX, BitVec.extractLsb'_toNat, Nat.shiftRight_eq_div_pow]
  omega

theorem toNat_fieldY : (fieldY o).toNat = o.toNat / 8 % 8 := by
  rw [fieldY, BitVec.extractLsb'_toNat, Nat.shiftRight_eq_div_pow]

theorem toNat_fieldZ : (fieldZ o).toNat = o.toNat % 8 := by
  rw [fieldZ, BitVec.extractLsb'_toNat, Nat.shiftRight_zero]

theorem toNat_fieldP : (fieldP o).toNat = o.toNat / 16 % 4 := by
  rw [fieldP, BitVec.extractLsb'_toNat, Nat.shiftRight_eq_div_pow]

theorem toNat_fieldQ : (fieldQ o).toNat = o.toNat / 8 % 2 := by
  rw [fieldQ, BitVec.extractLsb'_toNat, Nat.shiftRight_eq_div_pow]

end

/-- Settles O5: the fields by their bits, the tables by the lemmas that they invert. -/
theorem opcodeFieldsAndTables : Obligations.OpcodeFieldsAndTables := by
  unfold Obligations.OpcodeFieldsAndTables
  exact ⟨fun o => ⟨toNat_fieldX o, toNat_fieldY o, toNat_fieldZ o, toNat_fieldP o, toNat_fieldQ o, opByte_fields o⟩,
    rfl, rfl, rfl, Reg8.ofCode_code, Dest16.ofCode_code, AluOp.ofCode_code, rfl, rfl⟩

/-- Settles O4: each word evaluates to what the spec gives. -/
theorem specWordsDecode : Obligations.SpecWordsDecode := by
  unfold Obligations.SpecWordsDecode
  decide

end Sys2Proof
end

section
/-! The flag unit's laws (41_flag_unit.md): half-carry and overflow by formula, by bit and by range, the logical derivation, the F byte's
layout, INC and DEC in their operand forms, and A with itself. -/

namespace Sys2Proof.Machine

open Sys2Proof

section
variable (a b : Byte) (cin sub : Bool)

/-! ### Half-carry (R135) -/

theorem halfCarry_eq_true_iff :
    halfCarry a b cin sub = true ↔
      if sub then ((a.toNat % 16 : Nat) : Int) - (b.toNat % 16 : Nat) - cin.toNat < 0
      else a.toNat % 16 + b.toNat % 16 + cin.toNat > 0xF := by
  cases sub <;> simp only [halfCarry, Bool.false_eq_true, if_true, if_false, decide_eq_true_iff] <;> omega

theorem testBit_four_xor_xor (m n k : Nat) : (m ^^^ n ^^^ k).testBit 4 = true ↔ (m / 16 + n / 16 + k / 16) % 2 = 1 := by
  rw [Nat.testBit_xor, Nat.testBit_xor, bne_iff_ne, ne_eq, Bool.eq_iff_iff, bne_iff_ne, ne_eq, Bool.eq_iff_iff]
  simp only [Nat.testBit_eq_decide_div_mod_eq, decide_eq_true_eq]
  omega

/-- Bit 4 of the raw result is the sum of the operands' bits 4 and what the low nibbles carry or borrow. -/
theorem halfCarry_eq_testBit :
    halfCarry a b cin sub = (a.toNat ^^^ b.toNat ^^^ (rawResult a b cin sub % 512).toNat).testBit 4 := by
  have ha : a.toNat < 256 := a.isLt
  have hb : b.toNat < 256 := b.isLt
  have hcin : cin.toNat ≤ 1 := cin.toNat_le
  rw [Bool.eq_iff_iff, halfCarry_eq_true_iff, testBit_four_xor_xor, rawResult]
  cases sub <;> simp only [Bool.false_eq_true, if_true, if_false] <;> omega

/-! ### Overflow (R136) -/

theorem signedOverflow_eq_true_iff :
    signedOverflow a b cin sub = true ↔
      (if sub then a.getLsbD 7 ≠ b.getLsbD 7 else a.getLsbD 7 = b.getLsbD 7) ∧
        (truncResult a b cin sub).getLsbD 7 ≠ a.getLsbD 7 := by
  cases sub <;> simp [signedOverflow, BitVec.msb_eq_getLsbD_last]

/-- The result with the signs read as integers, R136's inference. -/
def signedResult : Int := if sub then a.toInt - b.toInt - cin.toNat else a.toInt + b.toInt + cin.toNat

theorem signedOverflow_iff_signedResult :
    signedOverflow a b cin sub = true ↔ signedResult a b cin sub < -128 ∨ 127 < signedResult a b cin sub := by
  have ha : a.toNat < 256 := a.isLt
  have hb : b.toNat < 256 := b.isLt
  have hcin : cin.toNat ≤ 1 := cin.toNat_le
  have hres := toNat_truncResult a b cin sub
  rw [rawResult] at hres
  simp only [signedOverflow, signedResult, BitVec.msb_eq_decide, BitVec.toInt_eq_toNat_cond]
  cases sub <;>
    simp only [Bool.false_eq_true, if_true, if_false, Bool.and_eq_true, bne_iff_ne, beq_iff_eq, ne_eq, decide_eq_decide]
      at hres ⊢ <;>
    omega

end

/-- Settles O39: by the nibbles and by bit 4. -/
theorem halfCarryIsBitFour : Obligations.HalfCarryIsBitFour := by
  unfold Obligations.HalfCarryIsBitFour
  intro a b cin sub raw'
  rw [flagH_arith]
  exact ⟨halfCarry_eq_true_iff a b cin sub, halfCarry_eq_testBit a b cin sub⟩

/-- Settles O38: by bits 7 and by the signed result's range. -/
theorem overflowIsSignedRange : Obligations.OverflowIsSignedRange := by
  unfold Obligations.OverflowIsSignedRange
  intro a b cin sub res signed
  rw [flagPV_arith]
  exact ⟨signedOverflow_eq_true_iff a b cin sub, signedOverflow_iff_signedResult a b cin sub⟩

/-! ### The logical derivation (R140, R141, R142) -/

theorem popcount_eq_sum (v : Byte) :
    popcount v = (v.getLsbD 0).toNat + (v.getLsbD 1).toNat + (v.getLsbD 2).toNat + (v.getLsbD 3).toNat +
      (v.getLsbD 4).toNat + (v.getLsbD 5).toNat + (v.getLsbD 6).toNat + (v.getLsbD 7).toNat := by
  have hrange : List.range 8 = [0, 1, 2, 3, 4, 5, 6, 7] := rfl
  simp only [popcount, hrange, ← List.countP_eq_length_filter, List.countP_cons, List.countP_nil, Bool.toNat, Bool.cond_eq_ite]
  omega

/-- Settles O40: each flag is read back from the packed F byte. -/
theorem logicalDerivation : Obligations.LogicalDerivation := by
  unfold Obligations.LogicalDerivation
  intro res f
  have hPV : flagPV f = (popcount res % 2 == 0) := flagPV_packFlags ..
  have hZ : flagZ f = (res == 0) := flagZ_packFlags ..
  have hS : flagS f = res.getLsbD 7 := (flagS_packFlags ..).trans (BitVec.msb_eq_getLsbD_last _)
  rw [hPV, hZ, beq_iff_eq, beq_iff_eq, popcount_eq_sum]
  exact ⟨rfl, Iff.rfl, Iff.rfl, hS, flagC_packFlags .., flagH_packFlags .., flagN_packFlags ..⟩

/-- Settles O41: the packed byte by its six flags, and the reads by their definition. -/
theorem flagsByteLayout : Obligations.FlagsByteLayout := by
  unfold Obligations.FlagsByteLayout
  refine ⟨fun s z h pv n c => ?_, fun f => ⟨rfl, rfl, rfl, rfl, rfl, rfl⟩⟩
  cases s <;> cases z <;> cases h <;> cases pv <;> cases n <;> cases c <;> rfl

/-! ### The truncated result without a carry-in -/

section
variable (a b v : Byte)

theorem truncResult_add : truncResult a b false false = a + b := by
  simp [truncResult, rawResult, BitVec.ofInt_add]

theorem truncResult_sub : truncResult a b false true = a - b := by
  simp [truncResult, rawResult, sub_eq_add_neg, BitVec.ofInt_add, BitVec.ofInt_neg]

theorem flagC_arith_inc : flagC (arith v 1 false false).2 = true ↔ v = 0xFF := by
  have hv : v.toNat < 256 := v.isLt
  rw [flagC_arith, carryOut_eq_true_iff, ← BitVec.toNat_inj]
  show (v.toNat : Int) + 1 + 0 > 0xFF ↔ v.toNat = 0xFF
  omega

theorem flagC_arith_dec : flagC (arith v 1 false true).2 = true ↔ v = 0x00 := by
  rw [flagC_arith, carryOut_eq_true_iff, ← BitVec.toNat_inj]
  show (v.toNat : Int) - 1 - 0 < 0 ↔ v.toNat = 0
  omega

end

/-! ### INC and DEC (R189, R190) -/

@[simp] theorem State.setF_setF (s : State) (v w : Byte) : (s.setF v).setF w = s.setF w := rfl

theorem State.setReg8_setF_self (s : State) (r : Reg8) (v : Byte) : (s.setReg8 r v).setF s.f = s.setReg8 r v := by
  cases r <;> rfl

theorem State.writeByte_setF_self (s : State) (addr : Word) (v : Byte) : (s.writeByte addr v).setF s.f = s.writeByte addr v := rfl

theorem State.loadsReg8_incDec (s : State) (r : Reg8) (sub : Bool) :
    LoadsReg8 r (arith (s.reg8 r) 1 false sub).1 s ((s.incDec (.reg r) sub).setF s.f) := by
  rw [State.incDec_reg, State.setF_setF, State.setReg8_setF_self]
  exact s.loadsReg8_setReg8 r _

theorem State.storesOnly_incDec {s : State} {p : Place} {addr : Word} (h : p.resolve s = .mem addr) (sub : Bool) :
    StoresOnly addr (arith (s.readByte addr) 1 false sub).1 s ((s.incDec p sub).setF s.f) := by
  rw [State.incDec_mem s p sub addr h, State.setF_setF, State.writeByte_setF_self]
  exact s.storesOnly_writeByte addr _

/-- Settles O48: the three forms are INC of a register or of a byte of memory; from an operand 1 the carry out needs 0xFF. -/
theorem incForms : Obligations.IncForms := by
  unfold Obligations.IncForms
  refine ⟨fun s r d x => ⟨⟨rfl, ?reg⟩, ⟨rfl, ?hl⟩, ⟨rfl, ?idx⟩⟩, fun v => ⟨truncResult_add v 1, flagC_arith_inc v⟩⟩
  case reg => exact ⟨_, rfl, rfl, s.loadsReg8_incDec r false⟩
  case hl => exact ⟨_, rfl, rfl, State.storesOnly_incDec (Place.resolve_indirect s .hl) false⟩
  case idx => exact ⟨_, rfl, rfl, State.storesOnly_incDec (Place.resolve_indexed s x d) false⟩

/-- Settles O49: the three forms are DEC of a register or of a byte of memory; an operand 1 is borrowed from 0x00 only. -/
theorem decForms : Obligations.DecForms := by
  unfold Obligations.DecForms
  refine ⟨fun s r d x => ⟨⟨rfl, ?reg⟩, ⟨rfl, ?hl⟩, ⟨rfl, ?idx⟩⟩, fun v => ⟨truncResult_sub v 1, flagC_arith_dec v⟩⟩
  case reg => exact ⟨_, rfl, rfl, s.loadsReg8_incDec r true⟩
  case hl => exact ⟨_, rfl, rfl, State.storesOnly_incDec (Place.resolve_indirect s .hl) true⟩
  case idx => exact ⟨_, rfl, rfl, State.storesOnly_incDec (Place.resolve_indexed s x d) true⟩

/-! ### A with itself (R148) -/

section
variable (a : Byte)

theorem arith_self_sub : arith a a false true = (0, 0x42) := by
  have hraw : rawResult a a false true = 0 := by simp [rawResult]
  have htrunc : truncResult a a false true = 0 := by rw [truncResult, hraw]; rfl
  have hcarry : carryOut a a false true = false := by simp [carryOut, hraw]
  have hhalf : halfCarry a a false true = false := by simp [halfCarry]
  have hover : signedOverflow a a false true = false := by simp [signedOverflow]
  rw [arith, htrunc, hcarry, hhalf, hover]
  rfl

theorem arith_self_sbc : arith a a true true = (0xFF, 0x93) := by
  have hraw : rawResult a a true true = -1 := by simp [rawResult]
  have htrunc : truncResult a a true true = 0xFF := by rw [truncResult, hraw]; rfl
  have hcarry : carryOut a a true true = true := by simp [carryOut, hraw]
  have hhalf : halfCarry a a true true = true := by simp [halfCarry]
  have hover : signedOverflow a a true true = false := by simp [signedOverflow]
  rw [arith, htrunc, hcarry, hhalf, hover]
  rfl

end

theorem logic_self_xor (a : Byte) : logic (a ^^^ a) = (0, 0x44) := by
  rw [BitVec.xor_self]
  rfl

/-- What a mnemonic with a register operand does, from the value of its evaluation. -/
theorem exec_instrR_of_aluEval {op : AluOp} {s : State} {r : Reg8} {res f : Byte}
    (h : aluEval op s.a (s.reg8 r) (flagC s.f) = (res, f)) :
    exec (op.instrR r) s = .next { s with a := if aluWritesA op then res else s.a, f := f } := by
  rw [exec_instrR, State.alu, State.readOperand_place, Place.resolve_reg, State.readTarget_reg, h]

/-- Settles O50: each mnemonic by what it evaluates to on A with itself. -/
theorem selfOperandIdentities : Obligations.SelfOperandIdentities := by
  unfold Obligations.SelfOperandIdentities
  intro s
  have hadd (ha : s.a = 0x80) : arith s.a s.a false false = (0, 0x45) := by
    rw [ha]
    rfl
  have hsbc (hc : flagC s.f = true) : arith s.a s.a (flagC s.f) true = (0xFF, 0x93) := by rw [hc, arith_self_sbc]
  exact ⟨exec_instrR_of_aluEval (op := .sub) (arith_self_sub s.a), exec_instrR_of_aluEval (op := .cp) (arith_self_sub s.a),
    exec_instrR_of_aluEval (op := .xor) (logic_self_xor s.a), fun ha => exec_instrR_of_aluEval (op := .add) (hadd ha),
    fun hc => exec_instrR_of_aluEval (op := .sbc) (hsbc hc)⟩

end Sys2Proof.Machine
end

section
/-! What an instruction can do, said once (10_state.md R37, 20_memory.md R59), and from it every frame: the registers, F, PC, memory and
the record of events. -/

namespace Sys2Proof.Machine

open Sys2Proof

/-! ### What an instruction can do -/

/-- The next states of an instruction from `s`, each with what the writers' tables (R33, R37, R59) say of the instruction. -/
inductive Effect (i : Instr) (s : State) : State → Prop where
  | loadReg8 {r : Reg8} {v : Byte} : reg8Written i = [r] → storedByte s i = none → Effect i s (s.setReg8 r v)
  | loadDest16 {dd : Dest16} {nn : Word} : i = .ldDdNn dd nn → Effect i s (s.setDest16 dd nn)
  | loadIdx {x : Idx} {w : Word} : idxWritten i = some x → storedByte s i = none → Effect i s (s.setIdx x w)
  | store {addr : Word} {v : Byte} : storedByte s i = some (addr, v) → Effect i s (s.writeByte addr v)
  | alu {op : AluOp} {src : Operand} : writesF i = true → (aluWritesA op = true → reg8Written i = [.a]) →
      storedByte s i = none → Effect i s (s.alu op src)
  | incDecReg8 {r : Reg8} {v f : Byte} : writesF i = true → reg8Written i = [r] → storedByte s i = none →
      Effect i s ((s.setReg8 r v).setF f)
  | incDecMem {addr : Word} {v f : Byte} : writesF i = true → storedByte s i = some (addr, v) →
      Effect i s ((s.writeByte addr v).setF f)
  | jump {target : Word} : assignsPc i = true → storedByte s i = none → Effect i s (s.jump target)
  | decBJump {target : Word} : assignsPc i = true → reg8Written i = [.b] → storedByte s i = none →
      Effect i s (s.decB.jump target)
  | nothing : storedByte s i = none → Effect i s s
  | report {ev : DiagEvent} : i.format = none → storedByte s i = none → Effect i s (s.emit ev)

theorem exec_effect (i : Instr) (s : State) : ∃ t, exec i s = .next t ∧ Effect i s t := by
  cases i with
  | ldRR | ldRHl | ldRN | ldRXd | ldRNPrefixed => exact ⟨_, rfl, .loadReg8 rfl rfl⟩
  | ldABc | ldADe | ldADir => exact ⟨_, rfl, .loadReg8 (r := .a) rfl rfl⟩
  | ldDdNn => exact ⟨_, rfl, .loadDest16 rfl⟩
  | ldXNn | ldXDir => exact ⟨_, rfl, .loadIdx rfl rfl⟩
  | ldHlR | ldHlN | ldBcA | ldDeA | ldDirA | ldXdR | ldXdN => exact ⟨_, rfl, .store rfl⟩
  | addR | adcR | subR | sbcR | andR | xorR | orR | addHl | adcHl | subHl | sbcHl | andHl | xorHl | orHl
  | addN | adcN | subN | sbcN | andN | xorN | orN | addXd | adcXd | subXd | sbcXd | andXd | xorXd | orXd =>
    exact ⟨_, rfl, .alu rfl (fun _ => rfl) rfl⟩
  | cpR | cpHl | cpN | cpXd => exact ⟨_, rfl, .alu rfl (fun h => nomatch h) rfl⟩
  | incR | decR => exact ⟨_, rfl, .incDecReg8 rfl rfl rfl⟩
  | incHl | incXd => exact ⟨_, rfl, .incDecMem rfl (congrArg (fun v => some (_, v)) (truncResult_add _ 1).symm)⟩
  | decHl | decXd => exact ⟨_, rfl, .incDecMem rfl (congrArg (fun v => some (_, v)) (truncResult_sub _ 1).symm)⟩
  | jp | jr => exact ⟨_, rfl, .jump rfl rfl⟩
  | jpCc | jrCc => exact ⟨_, congrArg Host.Outcome.next (s.ite_jump _ _), .jump rfl rfl⟩
  | djnz => exact ⟨_, congrArg Host.Outcome.next (s.decB.ite_jump _ _), .decBJump rfl rfl rfl⟩
  | nop => exact ⟨_, rfl, .nothing rfl⟩
  | prefixDD | prefixFD => exact ⟨_, rfl, .report rfl rfl⟩

theorem effect_of_exec {i : Instr} {s t : State} (h : exec i s = .next t) : Effect i s t := by
  obtain ⟨u, hu, heffect⟩ := exec_effect i s
  cases h.symm.trans hu
  exact heffect

/-! ### The registers through their accessors: the updates that `Laws/State.lean` does not list -/

@[simp] theorem State.reg8_alu (s : State) (op : AluOp) (src : Operand) (q : Reg8) :
    (s.alu op src).reg8 q = if q = .a then (s.alu op src).a else s.reg8 q := by cases q <;> rfl

@[simp] theorem State.reg8_decB (s : State) (q : Reg8) : s.decB.reg8 q = if q = .b then s.b - 1 else s.reg8 q := by cases q <;> rfl

theorem State.reg8_setDest16 {s : State} {dd : Dest16} {w : Word} {q : Reg8} (h : q ∉ reg8Written (.ldDdNn dd w)) :
    (s.setDest16 dd w).reg8 q = s.reg8 q := by
  cases dd with
  | pair p => cases p <;> cases q <;> simp [reg8Written] at h <;> rfl
  | sp => cases q <;> rfl

section
variable (s : State) (x : Idx)

@[simp] theorem State.idx_setReg8 (r : Reg8) (v : Byte) : (s.setReg8 r v).idx x = s.idx x := by cases x <;> simp [State.idx]

@[simp] theorem State.idx_setDest16 (dd : Dest16) (w : Word) : (s.setDest16 dd w).idx x = s.idx x := by
  cases x <;> simp [State.idx]

@[simp] theorem State.idx_writeByte (addr : Word) (v : Byte) : (s.writeByte addr v).idx x = s.idx x := by cases x <;> rfl

@[simp] theorem State.idx_alu (op : AluOp) (src : Operand) : (s.alu op src).idx x = s.idx x := by cases x <;> rfl

@[simp] theorem State.idx_jump (target : Word) : (s.jump target).idx x = s.idx x := by cases x <;> rfl

@[simp] theorem State.idx_decB : s.decB.idx x = s.idx x := by cases x <;> rfl

@[simp] theorem State.idx_emit (ev : DiagEvent) : (s.emit ev).idx x = s.idx x := by cases x <;> rfl

end

/-! ### Frames -/

section
variable {i : Instr} {s t : State} (h : Effect i s t)
include h

theorem Effect.keepsReg8Except : KeepsReg8Except (reg8Written i) s t := by
  intro q hq
  cases h with
  | loadReg8 hw => rw [State.reg8_setReg8, if_neg (by simpa [hw] using hq)]
  | incDecReg8 _ hw => rw [State.reg8_setF, State.reg8_setReg8, if_neg (by simpa [hw] using hq)]
  | loadDest16 hi =>
    subst hi
    exact State.reg8_setDest16 hq
  | decBJump _ hw => rw [State.reg8_jump, State.reg8_decB, if_neg (by simpa [hw] using hq)]
  | alu _ hw =>
    rw [State.reg8_alu, State.alu_a]
    split
    next hqa =>
      subst hqa
      exact if_neg fun ha => hq (by simp [hw ha])
    next => rfl
  | loadIdx | store | incDecMem | jump | nothing | report => simp

theorem Effect.f_eq (hf : writesF i = false) : t.f = s.f := by
  cases h with
  | alu hw | incDecReg8 hw | incDecMem hw => cases hf.symm.trans hw
  | _ => simp

theorem Effect.idx_eq {x : Idx} (hx : idxWritten i ≠ some x) : t.idx x = s.idx x := by
  cases h with
  | loadIdx hw => rw [State.idx_setIdx, if_neg fun hxy => hx (by rw [hw, hxy])]
  | _ => simp

theorem Effect.sp_eq (hsp : writesSp i = false) : t.sp = s.sp := by
  cases h with
  | @loadDest16 dd nn hi =>
    subst hi
    cases dd with
    | pair p => simp
    | sp => cases hsp
  | _ => simp

theorem Effect.pc_eq (hpc : assignsPc i = false) : t.pc = s.pc := by
  cases h with
  | jump hw | decBJump hw => cases hpc.symm.trans hw
  | _ => simp

theorem Effect.keepsInert : KeepsInert s t := by
  cases h <;> simp [KeepsInert]

theorem Effect.events_eq (hf : i.format ≠ none) : t.events = s.events := by
  cases h with
  | report hw => exact absurd hw hf
  | _ => simp

/-- Memory is what it was, or has the one byte written that the writes table gives. -/
theorem Effect.mem_eq :
    t.mem = match storedByte s i with
      | some (addr, v) => s.mem.write addr v
      | none => s.mem := by
  cases h with
  | store hs | incDecMem _ hs => rw [hs]; rfl
  | loadReg8 _ hs | loadIdx _ hs | alu _ _ hs | incDecReg8 _ _ hs | jump _ hs | decBJump _ _ hs | nothing hs | report _ hs =>
    simp [hs]
  | loadDest16 hi => simp [hi, storedByte]

end

/-! ### The statements about an instruction -/

/-- Settles O15, by the frame of each register. -/
theorem registersWrittenOnlyByTheirWriters : Obligations.RegistersWrittenOnlyByTheirWriters := by
  unfold Obligations.RegistersWrittenOnlyByTheirWriters
  intro i s t hexec
  have h := effect_of_exec hexec
  exact ⟨h.keepsReg8Except, h.f_eq, fun _ => h.idx_eq, h.sp_eq, h.pc_eq, h.keepsInert⟩

/-- Settles O18: memory read after the one write, or after none. -/
theorem instructionStoresOnlyItsByte : Obligations.InstructionStoresOnlyItsByte := by
  unfold Obligations.InstructionStoresOnlyItsByte
  intro i s t hexec
  have hmem := (effect_of_exec hexec).mem_eq
  cases hs : storedByte s i with
  | some av =>
    intro k
    rw [State.readByte, hmem, hs]
    exact Memory.read_write ..
  | none =>
    intro k
    rw [State.readByte, hmem, hs]
    rfl

/-! ### The statements about a step -/

/-- Settles O16: an instruction of no writer of F keeps it, and the report of an unknown opcode does. -/
theorem otherStepsKeepF : Obligations.OtherStepsKeepF := by
  unfold Obligations.OtherStepsKeepF
  intro s t hstep hdecode
  obtain ⟨i, hi, hrun⟩ | ⟨o, -, hrun⟩ := step_cases s
  · exact (effect_of_exec (hrun.symm.trans hstep)).f_eq (hdecode i hi)
  · cases hrun.symm.trans hstep
    rfl

/-- Settles O19: the new window is read from the memory that the instruction's store left. -/
theorem storeIsSeenByNextFetch : Obligations.StoreIsSeenByNextFetch := by
  unfold Obligations.StoreIsSeenByNextFetch
  intro s t i addr v hdecode hs hstep
  rw [step_of_decode hdecode] at hstep
  have hstores := instructionStoresOnlyItsByte i _ t hstep
  rw [hs] at hstores
  have hread : ∀ k, t.readByte k = if k = addr then v else s.readByte k := hstores
  simp only [State.fetchWindow, List.map_cons, List.map_nil, hread, add_zero]

/-! ### The invariant -/

theorem Effect.mem_wf {i : Instr} {s t : State} (h : Effect i s t) (hs : Memory.wf s.mem) : Memory.wf t.mem := by
  rw [h.mem_eq]
  split
  · exact Memory.wf_write hs _ _
  · exact hs

theorem State.InertZero.of_keepsInert {s t : State} (hs : s.InertZero) (h : KeepsInert s t) : t.InertZero := by
  obtain ⟨ha, hf, hb, hc, hd, he, hh, hl, hi, hr⟩ := h
  rwa [State.InertZero, ha, hf, hb, hc, hd, he, hh, hl, hi, hr]

theorem exec_keeps_f_bits {i : Instr} {s t : State} (h : exec i s = .next t) (h5 : s.f.getLsbD 5 = false)
    (h3 : s.f.getLsbD 3 = false) : t.f.getLsbD 5 = false ∧ t.f.getLsbD 3 = false := by
  cases hf : writesF i with
  | false =>
    rw [(effect_of_exec h).f_eq hf]
    exact ⟨h5, h3⟩
  | true =>
    obtain ⟨u, -, hu, -, hu5, hu3, -⟩ := flagsAreFullyRecomputed i s s.f hf fun _ => rfl
    cases hu.symm.trans h
    exact ⟨hu5, hu3⟩

theorem exec_keeps_inv {i : Instr} {s t : State} (hs : s.Inv) (h : exec i s = .next t) : t.Inv := by
  obtain ⟨hmem, h5, h3, hinert⟩ := hs
  have heffect := effect_of_exec h
  obtain ⟨ht5, ht3⟩ := exec_keeps_f_bits h h5 h3
  exact ⟨heffect.mem_wf hmem, ht5, ht3, hinert.of_keepsInert heffect.keepsInert⟩

/-- Settles O14: the fetch moves PC only, an instruction keeps the invariant, and a report adds an event only. -/
theorem stepKeepsInv : Obligations.StepKeepsInv := by
  unfold Obligations.StepKeepsInv
  intro s t hs hstep
  obtain ⟨i, -, hrun⟩ | ⟨o, -, hrun⟩ := step_cases s
  · exact exec_keeps_inv (s := s.advance i.length) hs (hrun.symm.trans hstep)
  · cases hrun.symm.trans hstep
    exact hs

/-- Settles O13: no byte is listed, F is 0, and so are the inert registers. -/
theorem resetSatisfiesInv : Obligations.ResetSatisfiesInv := by
  unfold Obligations.ResetSatisfiesInv
  exact ⟨State.reset_mem_wf, rfl, rfl, State.reset_inertZero⟩

end Sys2Proof.Machine
end

section
/-! The step (30_encoding.md R77): on an encoding at PC, byte by byte, and on an unknown opcode with its one event. -/

namespace Sys2Proof.Machine

open Sys2Proof

/-! ### The step on an encoding at PC -/

/-- Settles O6: `step` runs what the window decodes to, and `advance` is the move of PC. -/
theorem stepRunsDecodedInstruction : Obligations.StepRunsDecodedInstruction := by
  unfold Obligations.StepRunsDecodedInstruction
  exact fun _ _ h => step_of_decode h

theorem State.getElem_fetchWindow (s : State) {k : Nat} (hk : k < s.fetchWindow.length) :
    s.fetchWindow[k] = s.readByte (s.pc + BitVec.ofNat 16 k) := by
  have hk4 : k < 4 := hk
  interval_cases k
  · exact congrArg s.readByte (add_zero s.pc).symm
  all_goals rfl

theorem State.fetchWindow_eq_append {s : State} {bytes : List Byte} (hlen : bytes.length ≤ 4) (h : s.holdsAtPc bytes) :
    s.fetchWindow = bytes ++ s.fetchWindow.drop bytes.length := by
  have htake : s.fetchWindow.take bytes.length = bytes := by
    refine List.ext_getElem (List.length_take_of_le hlen) fun k _ hk => ?_
    rw [List.getElem_take, s.getElem_fetchWindow, h k hk, List.getD_eq_getElem _ _ hk]
  conv_lhs => rw [← List.take_append_drop bytes.length s.fetchWindow, htake]

/-- Settles O7: the window is the encoding and further bytes, which decode to the instruction (`decode_encode_append`). -/
theorem stepRunsEncodedBytes : Obligations.StepRunsEncodedBytes := by
  unfold Obligations.StepRunsEncodedBytes
  intro s i hwf hholds
  have hlen : (encode i).length ≤ 4 := (encode_length i).trans_le i.length_bounds.2
  have hdecode : decode s.fetchWindow = .instr i := by
    rw [State.fetchWindow_eq_append hlen hholds, decode_encode_append hwf]
  rw [encode_length]
  exact step_of_decode hdecode

/-! ### The step byte by byte (R77) -/

@[simp] theorem State.advance_advance (s : State) (m n : Nat) : (s.advance m).advance n = s.advance (m + n) := by
  simp [State.advance, BitVec.ofNat_add, add_assoc]

@[simp] theorem State.advance_zero (s : State) : s.advance 0 = s := by simp [State.advance]

/-- Fetching the operand bytes one by one gives the instruction that the next two bytes complete, with PC past the operand bytes. -/
theorem runRow_of_encodes {row : OpRow} {opcode : List Byte} (h : row.Encodes opcode) (s : State) :
    s.runRow row = exec (row.build (s.readByte s.pc) (s.readByte (s.pc + 1))) (s.advance row.format.operandBytes) := by
  have hle := row.format.operandBytes_le_two
  obtain h0 | h1 | h2 : row.format.operandBytes = 0 ∨ row.format.operandBytes = 1 ∨ row.format.operandBytes = 2 := by omega
  · simp only [State.runRow, h0, State.advance_zero]
    exact congrArg (exec · s) (h.build_congr h0 rfl)
  · simp only [State.runRow, h1]
    exact congrArg (exec · (s.advance 1)) (h.build_congr h1 rfl)
  · simp only [State.runRow, h2]
    exact congrArg (exec _) (s.advance_advance 1 1)

theorem State.readByte_advance_pc_add (s : State) (n : Nat) (k : Word) :
    (s.advance n).readByte ((s.advance n).pc + k) = s.readByte (s.pc + (BitVec.ofNat 16 n + k)) :=
  congrArg s.readByte (add_assoc ..)

theorem step_of_primaryRow {s : State} {row : OpRow} (h : primaryRow (s.readByte s.pc) = some row) :
    step s = (s.advance 1).runRow row := by
  have hdecode := s.decode_fetchWindow.trans (decodeFour_of_primaryRow h ..)
  have henc := primaryRow_encodes h
  rw [step_of_decode hdecode, henc.length_build, runRow_of_encodes henc, State.advance_advance, State.readByte_advance_pc_add]
  rfl

theorem step_of_escapedRow {s : State} {x : Idx} {row : OpRow} (h0 : s.readByte s.pc = x.escape)
    (h : escapedRow x (s.readByte (s.pc + 1)) = some row) : step s = (s.advance 2).runRow row := by
  have hdecode := s.decode_fetchWindow.trans (h0 ▸ decodeFour_of_escapedRow h ..)
  have henc := escapedRow_encodes h
  rw [step_of_decode hdecode, henc.length_build, runRow_of_encodes henc, State.advance_advance, State.readByte_advance_pc_add]
  rfl

/-- The table field of the events of an escape byte's table (R221). -/
def tableOf : Idx → TableId
  | .ix => .dd
  | .iy => .fd

theorem exec_unknownInstr (x : Idx) (o : Byte) (s : State) : exec (x.unknownInstr o) s = .next (s.emit ⟨tableOf x, o⟩) := by
  cases x <;> rfl

theorem stepByFetch_of_escape {s : State} {x : Idx} (h : s.readByte s.pc = x.escape) :
    stepByFetch s = (s.advance 1).runEscaped x (tableOf x) := by
  cases x <;> simp [stepByFetch, State.fetch8, h, Idx.escape, tableOf]

theorem stepByFetch_of_primaryRow {s : State} {row : OpRow} (h : primaryRow (s.readByte s.pc) = some row) :
    stepByFetch s = (s.advance 1).runRow row := by
  obtain ⟨hdd, hfd⟩ := Idx.ofEscape_eq_none.mp (Idx.ofEscape_of_primaryRow h)
  simp only [stepByFetch, State.fetch8, if_neg hdd, if_neg hfd, h]

theorem stepByFetch_of_unknownPrimary {s : State} (h : unknownPrimaryBytes.contains (s.readByte s.pc) = true) :
    stepByFetch s = .next ((s.advance 1).emit ⟨.primary, s.readByte s.pc⟩) := by
  rw [unknownPrimaryBytes_contains, Bool.and_eq_true, Option.isNone_iff_eq_none, Option.isNone_iff_eq_none] at h
  obtain ⟨hescape, hrow⟩ := h
  obtain ⟨hdd, hfd⟩ := Idx.ofEscape_eq_none.mp hescape
  simp only [stepByFetch, State.fetch8, if_neg hdd, if_neg hfd, hrow, reportUnknown_spec]

theorem stepByFetch_of_escapedRow {s : State} {x : Idx} {row : OpRow} (h0 : s.readByte s.pc = x.escape)
    (h : escapedRow x (s.readByte (s.pc + 1)) = some row) : stepByFetch s = (s.advance 2).runRow row := by
  have hrow : escapedRow x (s.advance 1).fetch8.1 = some row := h
  rw [stepByFetch_of_escape h0, State.runEscaped, hrow]
  exact congrArg (State.runRow · row) (s.advance_advance 1 1)

theorem stepByFetch_of_unknownSecond {s : State} {x : Idx} (h0 : s.readByte s.pc = x.escape)
    (h : knownSecondBytes.contains (s.readByte (s.pc + 1)) = false) :
    stepByFetch s = exec (x.unknownInstr (s.readByte (s.pc + 1))) (s.advance 2) := by
  have hrow : escapedRow x (s.advance 1).fetch8.1 = none := (escapedRow_eq_none_iff x _).mpr h
  rw [stepByFetch_of_escape h0, State.runEscaped, hrow, exec_unknownInstr, ← s.advance_advance 1 1]
  rfl

/-- Settles O8: in each case of the first two bytes, both steps come to the same row, or to the same report. -/
theorem stepIsFetchStateMachine : Obligations.StepIsFetchStateMachine := by
  unfold Obligations.StepIsFetchStateMachine
  intro s
  obtain ⟨row, hrow⟩ | ⟨x, row, hx, hrow⟩ | ⟨x, hx, hsecond⟩ | hprimary :=
    opcode_cases (s.readByte s.pc) (s.readByte (s.pc + 1))
  · rw [step_of_primaryRow hrow, stepByFetch_of_primaryRow hrow]
  · rw [step_of_escapedRow hx hrow, stepByFetch_of_escapedRow hx hrow]
  · rw [step_of_unknownSecond hx hsecond, stepByFetch_of_unknownSecond hx hsecond]
  · rw [step_of_unknownPrimary hprimary, stepByFetch_of_unknownPrimary hprimary]

/-! ### Unknown opcodes and their events (R221, R222, R225) -/

/-- Settles O11 by the step on an unknown opcode; the two constructors are reports by their meaning. -/
theorem unknownOpcodeChangesOnlyPc : Obligations.UnknownOpcodeChangesOnlyPc := by
  unfold Obligations.UnknownOpcodeChangesOnlyPc
  refine ⟨fun s ev hev => ?_, fun s o => ⟨rfl, rfl⟩⟩
  rw [step_of_unknownEvent hev]
  split <;> rfl

theorem unknownEvent_of_unknownPrimary {b0 : Byte} (h : unknownPrimaryBytes.contains b0 = true) (b1 : Byte) :
    unknownEvent b0 b1 = some ⟨.primary, b0⟩ := by
  rw [unknownEvent, if_pos h]

theorem unknownEvent_of_unknownSecond (x : Idx) {b1 : Byte} (h : knownSecondBytes.contains b1 = false) :
    unknownEvent x.escape b1 = some ⟨tableOf x, b1⟩ := by
  unfold unknownEvent
  rw [h]
  cases x <;> rfl

/-- Where the first two bytes name no unknown opcode, the decoded instruction is one of a table's row, so it has a format. -/
theorem decodeFour_of_unknownEvent_eq_none {b0 b1 : Byte} (h : unknownEvent b0 b1 = none) (b2 b3 : Byte) :
    ∃ i, decodeFour b0 b1 b2 b3 = .instr i ∧ i.format ≠ none := by
  obtain ⟨row, hrow⟩ | ⟨x, row, rfl, hrow⟩ | ⟨x, rfl, hsecond⟩ | hprimary := opcode_cases b0 b1
  · exact ⟨_, decodeFour_of_primaryRow hrow .., by simp [(primaryRow_build hrow b1 b2).1]⟩
  · exact ⟨_, decodeFour_of_escapedRow hrow .., by simp [(escapedRow_build hrow b2 b3).1]⟩
  · cases (unknownEvent_of_unknownSecond x hsecond).symm.trans h
  · cases (unknownEvent_of_unknownPrimary hprimary b1).symm.trans h

theorem step_events {s t : State} (h : step s = .next t) :
    t.events = s.events ++ (unknownEvent (s.readByte s.pc) (s.readByte (s.pc + 1))).toList := by
  cases hev : unknownEvent (s.readByte s.pc) (s.readByte (s.pc + 1)) with
  | some ev =>
    cases (step_of_unknownEvent hev).symm.trans h
    rfl
  | none =>
    obtain ⟨i, hi, hformat⟩ := decodeFour_of_unknownEvent_eq_none hev (s.readByte (s.pc + 2)) (s.readByte (s.pc + 3))
    rw [step_of_decode (s.decode_fetchWindow.trans hi)] at h
    exact ((effect_of_exec h).events_eq hformat).trans (List.append_nil _).symm

theorem stepEvent_eq (s : State) : stepEvent s = unknownEvent (s.readByte s.pc) (s.readByte (s.pc + 1)) := by
  obtain ⟨t, ht⟩ := step_completes s
  have hlists := (events_of_step ht).symm.trans (step_events ht)
  simpa using congrArg List.head? (List.append_cancel_left hlists)

/-- Settles O10: the record gains just the unknown opcode's event, which is the one the port carries to the sink. -/
theorem stepEmitsEventExactlyOnUnknownOpcode : Obligations.StepEmitsEventExactlyOnUnknownOpcode := by
  unfold Obligations.StepEmitsEventExactlyOnUnknownOpcode
  refine ⟨⟨rfl, rfl, rfl⟩, fun κ diagSink k s => ?_, fun s => ?_⟩
  · rw [stepInto, stepEvent_eq]
    cases unknownEvent (s.readByte s.pc) (s.readByte (s.pc + 1)) <;> rfl
  · obtain ⟨t, ht⟩ := step_completes s
    exact ⟨t, ht, step_events ht, stepEvent_eq s⟩

/-! ### The sentinel (R232) -/

/-- Settles O60: the run loop peeks at the sentinel; the step is that of O52 on a 00 byte. -/
theorem stoppedStateStays : Obligations.StoppedStateStays := by
  unfold Obligations.StoppedStateStays
  intro fuel s h
  have hhalt := s.haltDetect_iff.mpr h
  exact ⟨hhalt, runUntilHalt_of_halt fuel hhalt, nopOnlyMovesPc.2.2 s h⟩

end Sys2Proof.Machine
end

section
/-! Memory as a list (20_memory.md, log entry 8): in canonical form it is determined by what it reads; and the image load (R242). -/

namespace Sys2Proof.Machine

open Sys2Proof

/-! ### The canonical form is determined by the reads -/

theorem Memory.get_of_mem {m : Memory} (h : m.Pairwise fun x y => x.1 < y.1) {x : Host.Cell} (hx : x ∈ m) :
    Memory.get m x.1 = x.2 := by
  induction m with
  | nil => cases hx
  | cons y m ih =>
    rw [List.pairwise_cons] at h
    obtain ⟨hy, hm⟩ := h
    rcases List.mem_cons.mp hx with rfl | hxm
    · simp [Memory.get]
    · have hne : y.1 ≠ x.1 := (hy x hxm).ne
      rw [Memory.get, if_neg hne, ih hm hxm]

theorem Memory.mem_of_get {m : Memory} {k : Nat} (h : Memory.get m k ≠ Memory.unlisted) : (k, Memory.get m k) ∈ m := by
  induction m with
  | nil => exact absurd rfl h
  | cons y m ih =>
    by_cases hy : y.1 = k
    · subst hy
      simp [Memory.get]
    · rw [Memory.get, if_neg hy] at h ⊢
      exact List.mem_cons_of_mem _ (ih h)

/-- In canonical form the listed cells are those that read as something else than the unlisted byte. -/
theorem Memory.mem_iff_read {m : Memory} (h : m.wf) (x : Host.Cell) :
    x ∈ m ↔ x.1 < Config.memSize ∧ x.2 ≠ Memory.unlisted ∧ m.read (BitVec.ofNat 16 x.1) = x.2 := by
  have hkey (hlt : x.1 < Config.memSize) : m.read (BitVec.ofNat 16 x.1) = Memory.get m x.1 := by
    rw [Memory.read, BitVec.toNat_ofNat]
    exact congrArg m.get (Nat.mod_eq_of_lt hlt)
  constructor
  · intro hx
    obtain ⟨hval, hlt⟩ := h.2 x hx
    exact ⟨hlt, hval, (hkey hlt).trans (Memory.get_of_mem h.1 hx)⟩
  · rintro ⟨hlt, hval, hread⟩
    rw [hkey hlt] at hread
    have hmem := Memory.mem_of_get (hread.trans_ne hval)
    rwa [hread] at hmem

/-- Settles O20: such memories list the same cells, both in the order of their addresses. -/
theorem equalReadsMeanEqualMemory : Obligations.EqualReadsMeanEqualMemory := by
  unfold Obligations.EqualReadsMeanEqualMemory
  intro m m' h h' hread
  have hcells : ∀ x, x ∈ m ↔ x ∈ m' := fun x => by rw [Memory.mem_iff_read h, Memory.mem_iff_read h', hread]
  have hirrefl : Std.Irrefl fun x y : Host.Cell => x.1 < y.1 := ⟨fun x => lt_irrefl x.1⟩
  have hantisymm : Std.Antisymm fun x y : Host.Cell => x.1 < y.1 := ⟨fun x y hxy hyx => absurd hxy hyx.asymm⟩
  exact h.1.eq_of_mem_iff h'.1 hcells

/-! ### The image load (R242) -/

/-- A list written from an address on, no longer than memory: each byte at its distance from that address. -/
theorem Memory.read_writeList {vs : List Byte} (h : vs.length ≤ 65536) (m : Memory) (addr k : Word) :
    (m.writeList addr vs).read k = if (k - addr).toNat < vs.length then vs.getD (k - addr).toNat 0 else m.read k := by
  induction vs generalizing m addr with
  | nil => rfl
  | cons v vs ih =>
    rw [List.length_cons] at h
    rw [Memory.writeList, ih (by omega), Memory.read_write]
    by_cases hk : k = addr
    · subst hk
      have hlast : (k - (k + 1)).toNat = 65535 := by simp
      have hfirst : (k - k).toNat = 0 := by simp
      rw [hlast, hfirst, if_neg (by omega), if_pos rfl]
      simp
    · have hnext : (k - addr).toNat = (k - (addr + 1)).toNat + 1 := by bv_omega
      rw [hnext, if_neg hk]
      simp

/-- Settles O58: from address 0 on, each byte of the image stands at its own index. -/
theorem imageLoadWritesFromZero : Obligations.ImageLoadWritesFromZero := by
  unfold Obligations.ImageLoadWritesFromZero
  intro img s
  refine ⟨fun hlen => ⟨_, if_pos hlen, rfl, fun a => ?_⟩, fun hlen => if_neg (Nat.not_le.mpr hlen)⟩
  have hread := Memory.read_writeList hlen s.mem 0 a
  rwa [sub_zero] at hread

end Sys2Proof.Machine
end

section
/-! The rest, each by the meaning of its instruction or port: pairs, the remaining loads, conditions, DJNZ, the unknown-opcode policy
and reset. -/

namespace Sys2Proof.Machine

open Sys2Proof

/-! ### Pairs and loads -/

/-- The high byte's bits stand at 8 and above, the low byte's below (R23). -/
theorem joinBytes_eq_or (hi lo : Byte) : joinBytes hi lo = (hi.zeroExtend 16 <<< 8) ||| lo.zeroExtend 16 := by
  apply BitVec.eq_of_getLsbD_eq
  intro k hk
  rw [getLsbD_joinBytes, BitVec.getLsbD_or, BitVec.getLsbD_shiftLeft, BitVec.getLsbD_setWidth, BitVec.getLsbD_setWidth]
  by_cases hlow : k < 8
  · simp [hlow, hk]
  · have hzero : lo.getLsbD k = false := BitVec.getLsbD_of_ge _ _ (by omega)
    have hhi : k - 8 < 16 := by omega
    simp [hlow, hk, hzero, hhi]

/-- Settles O21: each pair is its two registers joined. -/
theorem pairsComposeByOr : Obligations.PairsComposeByOr := by
  unfold Obligations.PairsComposeByOr
  exact fun _ => ⟨joinBytes_eq_or .., joinBytes_eq_or .., joinBytes_eq_or ..⟩

/-- Settles O33: the immediate goes to the place the indexed address resolves to. -/
theorem ldIndexedImm : Obligations.LdIndexedImm := by
  unfold Obligations.LdIndexedImm
  exact fun s x d n => ⟨rfl, _, rfl, State.storesOnly_load8 (.imm8 n) (Place.resolve_indexed s x d)⟩

/-- Settles O35: the encoding and the write to X, for each index register, and the two orders of the data bytes. -/
theorem ldIdxDirect : Obligations.LdIdxDirect := by
  unfold Obligations.LdIdxDirect
  exact fun _ _ => ⟨⟨rfl, rfl⟩, ⟨rfl, rfl⟩, rfl⟩

/-- The registers LD r,n takes after an escape byte (R167). -/
theorem forPrefixedImm_iff (r : Reg8) : r.forPrefixedImm = true ↔ r ∈ [Reg8.b, .c, .d, .e, .a] := by cases r <;> decide

/-- Settles O36: the operand is the immediate, as without the escape byte; 26 and 2E are not listed in R80. -/
theorem ldRegImmEscaped : Obligations.LdRegImmEscaped := by
  unfold Obligations.LdRegImmEscaped
  intro s x r n
  have h26 : knownSecondBytes.contains 0x26 = false := by decide
  have h2E : knownSecondBytes.contains 0x2E = false := by decide
  exact ⟨rfl, ⟨_, rfl, s.loadsReg8_load8 r (.imm8 n)⟩, forPrefixedImm_iff r, decodeFour_unknownSecond x h26 ..,
    decodeFour_unknownSecond x h2E ..⟩

/-! ### Conditions and DJNZ -/

/-- The conditions JR takes (R204). -/
theorem forJr_iff (cc : Cond) : cc.forJr = true ↔ cc ∈ [Cond.nz, .z, .nc, .c] := by cases cc <;> decide

/-- Settles O51: each condition is a flag or its complement, and a flag is its bit. -/
theorem conditionsReadTheirFlag : Obligations.ConditionsReadTheirFlag := by
  unfold Obligations.ConditionsReadTheirFlag
  exact ⟨fun _ => ⟨rfl, rfl, rfl, rfl, rfl, rfl, rfl, rfl⟩, rfl, Cond.ofCode_code, fun cc _ => forJr_iff cc⟩

/-- Settles O55: B less one is not 0 just when B is not 1; the transfer is a jump to the displaced PC or to the PC it finds. -/
theorem decrementAndBranch : Obligations.DecrementAndBranch := by
  unfold Obligations.DecrementAndBranch
  intro s e
  have htarget : (if s.decB.b != 0 then s.pc + sext16 e else s.pc) = if s.b = 1 then s.pc else s.pc + sext16 e := by
    simp only [State.decB_b, bne_iff_ne, ne_eq, sub_eq_zero, ite_not]
  refine ⟨rfl, (congrArg Host.Outcome.next (s.decB.ite_jump _ _)).trans ?_⟩
  exact congrArg (Host.Outcome.next <| s.decB.jump ·) htarget

/-! ### The policy for unknown opcodes, and reset -/

/-- Settles O12: the model's value, and the branch of the report for the other value. -/
theorem refusePolicyRefusesUnknownOpcodes : Obligations.RefusePolicyRefusesUnknownOpcodes := by
  unfold Obligations.RefusePolicyRefusesUnknownOpcodes
  exact ⟨rfl, fun _ _ _ => rfl⟩

/-- Settles O56: reset does not look at the state. -/
theorem resetInputRepeatsConstruction : Obligations.ResetInputRepeatsConstruction := by
  unfold Obligations.ResetInputRepeatsConstruction
  exact ⟨fun _ => rfl, rfl⟩

end Sys2Proof.Machine
end
